-- ==== Sys2Proof/Word.lean ====
section
/-! DEFINITION. The word types of the engine (spec 00_scope.md R13: every value is unsigned, a byte has 8 bits). -/

namespace Sys2Proof

/-- A byte: a wire command, a data byte, a request header, the mode register (R13, R22). -/
abbrev Byte := BitVec 8

/-- A 16-bit value: a coordinate, a gap, an RGB565 pixel (R73, R53). -/
abbrev Half := BitVec 16

end Sys2Proof
end

