-- ==== Sys2Proof/Syntax.lean ====
section
/-! DEFINITION. What is encoded: transactions, request frames, and the one inductive of instructions, one constructor
per row of the opcode table (spec 30_encoding.md R70, R71, R76, R80). -/

namespace Sys2Proof

/-- The two primitives of the transport (R76, R180): `param` sends a command with a short parameter list, `color`
sends colour data, with or without a command. -/
inductive Kind where
  | param
  | color
  deriving DecidableEq, Repr, Inhabited

/-- The transaction format TXN (R76): kind, optional command byte, data bytes in transmission order. -/
structure Txn where
  kind : Kind
  cmd  : Option Byte
  data : List Byte
  deriving DecidableEq, Repr, Inhabited

/-- The ten vendor configuration commands (R88). The names are the opcodes. -/
inductive VendorCmd where
  | b0 | b1 | b4 | b6 | b7 | c0 | c1 | c5 | e0 | e1
  deriving DecidableEq, Repr, Inhabited

/-- The twenty-one command bytes the engine can emit (R80). -/
inductive Command where
  | swreset | slpout | invoff | invon | dispoff | dispon
  | caset | raset | ramwr | madctl | pixfmt
  | vendor (v : VendorCmd)
  deriving DecidableEq, Repr, Inhabited

/-- The request format REQ as labelled by R72: one header byte, then the operands as 16-bit values (R53: the request
port carries values, not bytes). -/
structure ReqFrame where
  header : Byte
  words  : List Half
  deriving DecidableEq, Repr, Inhabited

/-- What a decoder is given: a request of the caller or a transaction of the engine (R70). -/
inductive Frame where
  | req (f : ReqFrame)
  | txn (t : Txn)
  deriving DecidableEq, Repr

/-- The instructions: the seven requests (R71), the twenty-one wire commands (R80) and the command-less payload
(R87), in the order of the opcode table. -/
inductive Instr where
  /-- RESET (R111, R113). -/
  | reset
  /-- INIT (R116). -/
  | init
  /-- DRAW, half-open rectangle and row-major pixels (R150, R151). -/
  | draw (xStart yStart xEnd yEnd : Half) (pixels : List Half)
  /-- SET_MIRROR (R131). -/
  | setMirror (x y : Bool)
  /-- SET_SWAP_AXES (R136). -/
  | setSwapAxes (swap : Bool)
  /-- INVERT_COLOR, `true` is on (R140, D28). -/
  | invertColor (on : Bool)
  /-- DISPLAY_POWER, `true` is on (R143, D28). -/
  | displayPower (on : Bool)
  /-- 0x01 software reset (R81). -/
  | swreset
  /-- 0x11 sleep out (R82). -/
  | slpout
  /-- 0x20 colour invert off (R89). -/
  | invoff
  /-- 0x21 colour invert on (R89). -/
  | invon
  /-- 0x28 display off (R85). -/
  | dispoff
  /-- 0x29 display on (R85). -/
  | dispon
  /-- 0x2A column address set, start and inclusive end (R86). -/
  | caset (first last : Half)
  /-- 0x2B row address set, start and inclusive end (R86). -/
  | raset (first last : Half)
  /-- 0x2C memory write (R87). -/
  | ramwr
  /-- 0x36 mode register, the whole byte (R84). -/
  | madctl (mode : Byte)
  /-- 0x3A pixel format set, constant 0x66 (R83). -/
  | pixfmt
  /-- 0xB0 vendor configuration (R88). -/
  | vendorB0 (bytes : List Byte)
  /-- 0xB1 vendor configuration (R88). -/
  | vendorB1 (bytes : List Byte)
  /-- 0xB4 vendor configuration (R88). -/
  | vendorB4 (bytes : List Byte)
  /-- 0xB6 vendor configuration (R88). -/
  | vendorB6 (bytes : List Byte)
  /-- 0xB7 vendor configuration (R88). -/
  | vendorB7 (bytes : List Byte)
  /-- 0xC0 vendor configuration (R88). -/
  | vendorC0 (bytes : List Byte)
  /-- 0xC1 vendor configuration (R88). -/
  | vendorC1 (bytes : List Byte)
  /-- 0xC5 vendor configuration (R88). -/
  | vendorC5 (bytes : List Byte)
  /-- 0xE0 vendor configuration (R88). -/
  | vendorE0 (bytes : List Byte)
  /-- 0xE1 vendor configuration (R88). -/
  | vendorE1 (bytes : List Byte)
  /-- The pixel payload, no command byte (R87, R162). -/
  | payload (bytes : List Byte)
  deriving DecidableEq, Repr

end Sys2Proof
end

