-- ==== Sys2Proof/Machine/Operands.lean ====
section
/-! DEFINITION. Operand forms: the command bytes and kinds of the wire opcode map (spec 30_encoding.md R77, R80), the
coordinate block (R90), the window arithmetic (42_blit.md R155 to R157) and the pixel conversion (R161). -/

namespace Sys2Proof.Machine

/-- The opcode byte of a vendor command (R88). -/
def vendorByte : VendorCmd → Byte
  | .b0 => 0xB0#8
  | .b1 => 0xB1#8
  | .b4 => 0xB4#8
  | .b6 => 0xB6#8
  | .b7 => 0xB7#8
  | .c0 => 0xC0#8
  | .c1 => 0xC1#8
  | .c5 => 0xC5#8
  | .e0 => 0xE0#8
  | .e1 => 0xE1#8

/-- The command byte of each wire command (R80). -/
def commandByte : Command → Byte
  | .swreset => 0x01#8
  | .slpout => 0x11#8
  | .invoff => 0x20#8
  | .invon => 0x21#8
  | .dispoff => 0x28#8
  | .dispon => 0x29#8
  | .caset => 0x2A#8
  | .raset => 0x2B#8
  | .ramwr => 0x2C#8
  | .madctl => 0x36#8
  | .pixfmt => 0x3A#8
  | .vendor v => vendorByte v

/-- The kind each command is sent with: 0x2A and 0x2B are COLOR, every other command is PARAM (R77, C1). -/
def commandKind : Command → Kind
  | .caset | .raset => .color
  | .swreset | .slpout | .invoff | .invon | .dispoff | .dispon | .ramwr | .madctl | .pixfmt | .vendor _ => .param

/-- The transaction of a wire command with its data bytes (R76, R80). -/
def wireTxn (c : Command) (data : List Byte) : Txn := ⟨commandKind c, some (commandByte c), data⟩

/-- The payload transaction carries no command byte (R87, R162, D6). -/
def payloadTxn (data : List Byte) : Txn := ⟨.color, none, data⟩

/-- The pixel-format parameter, 18 bits per pixel (R10, R83). -/
def pixelFormat : Byte := 0x66#8

/-- `coord8(s, e)`: each coordinate big-endian, a zero before every byte (R90, R52, C8). -/
def coord8 (s e : Half) : List Byte :=
  [0#8, s.extractLsb' 8 8, 0#8, s.extractLsb' 0 8, 0#8, e.extractLsb' 8 8, 0#8, e.extractLsb' 0 8]

/-- The two coordinates of an 8-byte block whose pad bytes are zero; any other list is no coordinate block (R90). -/
def parseCoord8 : List Byte → Option (Half × Half)
  | [p0, sh, p1, sl, p2, eh, p3, el] =>
    if p0 = 0#8 ∧ p1 = 0#8 ∧ p2 = 0#8 ∧ p3 = 0#8 then some (sh ++ sl, eh ++ el) else none
  | _ => none

/-- The first coordinate of the window, `start + gap` (R91, R155); exact inside the valid domain (R170). -/
def windowFirst (start gap : Half) : Half := BitVec.ofNat 16 (start.toNat + gap.toNat)

/-- The inclusive last coordinate of the window, `end + gap - 1` (R91, R155); exact inside the valid domain (R170). -/
def windowLast (stop gap : Half) : Half := BitVec.ofNat 16 (stop.toNat + gap.toNat - 1)

/-- `conv`: red, green, blue at the top of their bytes, low bits zero (R161, R94). -/
def conv (p : Half) : List Byte :=
  [p.extractLsb' 11 5 ++ 0#3, p.extractLsb' 5 6 ++ 0#2, p.extractLsb' 0 5 ++ 0#3]

/-- The converted bytes of a pixel list, in input order (R160, R162). -/
def convAll (pixels : List Half) : List Byte := pixels.flatMap conv

/-- The payload bytes come in triples whose red and blue low three bits and green low two bits are zero (R94, R161). -/
def pixelBytesOk : List Byte → Bool
  | [] => true
  | r :: g :: b :: rest => (r &&& 0x07#8 == 0#8) && (g &&& 0x03#8 == 0#8) && (b &&& 0x07#8 == 0#8) && pixelBytesOk rest
  | _ => false

/-- The number of pixels of a rectangle, exact in natural numbers (R159, R170). -/
def pixelCount (xStart yStart xEnd yEnd : Half) : Nat :=
  (xEnd.toNat - xStart.toNat) * (yEnd.toNat - yStart.toNat)

end Sys2Proof.Machine
end

