-- ==== Sys2Proof/Config.lean ====
section
/-! DEFINITION. The implementation parameters of spec 00_scope.md R9, and the free values of 93_implementation_defined.md.
None of the constants has a body, so no proof can see a value of it. -/

namespace Sys2Proof

/-- One entry of INIT_VENDOR_TABLE: one of the ten opcodes and its byte list (R88, R117). -/
structure VendorEntry where
  cmd   : VendorCmd
  bytes : List Byte
  deriving DecidableEq, Repr, Inhabited

/-- The configuration of an engine, fixed for its life (R9, R34, R35). -/
structure Configuration where
  /-- X_GAP, added to both x window coordinates. -/
  xGap : Half
  /-- Y_GAP, added to both y window coordinates. -/
  yGap : Half
  /-- CAP_PIXELS, at most 2^32 - 1 (D3). -/
  capPixels : BitVec 32
  /-- HAS_RST, whether a reset line is configured. -/
  hasRst : Bool
  /-- MADCTL_DEFAULT, all 8 bits open (R26, D10). -/
  madctlDefault : Byte
  /-- INIT_VENDOR_TABLE, bytes, counts and order open (R117, D9). -/
  vendorTable : List VendorEntry
  /-- RESET_DELAY_MS, nominal 10 (R114, D14). -/
  resetDelayMs : Nat
  deriving DecidableEq, Repr

/-- X_GAP of the engine that `State.reset` builds (R9; notes/assumptions/3.md). -/
opaque Config.xGap : Half
/-- Y_GAP of the engine that `State.reset` builds (R9; notes/assumptions/3.md). -/
opaque Config.yGap : Half
/-- CAP_PIXELS of the engine that `State.reset` builds (R9; notes/assumptions/3.md). -/
opaque Config.capPixels : BitVec 32
/-- HAS_RST of the engine that `State.reset` builds (R9; notes/assumptions/3.md). -/
opaque Config.hasRst : Bool
/-- MADCTL_DEFAULT of the engine that `State.reset` builds (R26; notes/assumptions/3.md). -/
opaque Config.madctlDefault : Byte
/-- INIT_VENDOR_TABLE of the engine that `State.reset` builds (R117; notes/assumptions/3.md). -/
opaque Config.vendorTable : List VendorEntry
/-- RESET_DELAY_MS of the engine that `State.reset` builds (R114; notes/assumptions/3.md). -/
opaque Config.resetDelayMs : Nat

/-- The configuration of the engine that `State.reset` builds. -/
def Config.configured : Configuration where
  xGap := Config.xGap
  yGap := Config.yGap
  capPixels := Config.capPixels
  hasRst := Config.hasRst
  madctlDefault := Config.madctlDefault
  vendorTable := Config.vendorTable
  resetDelayMs := Config.resetDelayMs

/-- The level of the reset line before the first RESET request: `false` low, `true` high, any value (U15, N12; notes/assumptions/6.md). -/
opaque Config.resetLineAtReset : Bool

/-- What byte `addr` of CONV_BUF holds when nothing known has been written there, after `served` completed requests:
any value (U7, R32; notes/assumptions/5.md). -/
opaque Config.scratchByte (served addr : Nat) : Byte

end Sys2Proof
end

