-- ==== Sys2Proof/Machine/State.lean ====
section
/-! DEFINITION. The state of the engine as plain data (spec 10_state.md), the outcomes' reasons, and the state after
hardware reset (R38, R230). -/

namespace Sys2Proof.Machine

/-- The answer of the transport to one transaction: exactly two (R183, D23). -/
inductive Answer where
  | ok
  | fail
  deriving DecidableEq, Repr, Inhabited

/-- A level of the reset line: low is 0, high is 1 (R14, R184). -/
inductive Level where
  | low
  | high
  deriving DecidableEq, Repr, Inhabited

/-- An output event (R11, R15): a transaction with its answer, a reset-line level, a delay request in milliseconds. -/
inductive Event where
  | tx (t : Txn) (answer : Answer)
  | rst (level : Level)
  | delay (ms : Nat)
  deriving DecidableEq, Repr

/-- A completion (R98): success or one of the four error kinds. A transport failure carries the command byte of the
failed transaction (none for the payload) and its 1-based index (R203). -/
inductive Completion where
  | ok
  | invalidArgument
  | outOfMemory
  | transportFailure (cmd : Option Byte) (phase : Nat)
  | sizeLimitExceeded
  deriving DecidableEq, Repr

/-- Which operation is in progress. `bare` is a transaction on its own, which no caller can ask for (43_transport_adapter.md;
notes/assumptions/7.md). -/
inductive OpKind where
  | reset | init | draw | setMirror | setSwapAxes | invertColor | displayPower
  | bare
  deriving DecidableEq, Repr

/-- One step of an operation's pseudocode (R111, R116, R131, R136, R140, R143, R151). -/
inductive Action where
  /-- Attempt a transaction (R181, R182). -/
  | tx (t : Txn)
  /-- Attempt the payload transaction with the first 3n bytes of CONV_BUF (R151 phase 4). -/
  | txScratch (n : Nat)
  /-- Drive the reset line (R184). -/
  | rst (level : Level)
  /-- Ask for a delay (R185). -/
  | delay (ms : Nat)
  /-- Convert pixels into CONV_BUF (R160). -/
  | convert (pixels : List Half)
  /-- Write the mode register (R131, R136). -/
  | setMadctl (m : Byte)
  deriving DecidableEq, Repr

/-- An operation in progress: the transaction `tx` has been handed to the transport and is not yet answered (R183); `phase`
is its 1-based index (R27); `rest` is what follows once it is answered OK. -/
structure Operation where
  kind  : OpKind
  phase : Nat
  tx    : Txn
  rest  : List Action
  deriving DecidableEq, Repr

/-- What the caller does next: ask a request or destroy the engine (R18, R28, R234). -/
inductive CallerEvent where
  | request (f : ReqFrame)
  | teardown
  deriving DecidableEq, Repr

/-- The contents of CONV_BUF that are known: (index, byte) pairs, indexes strictly rising. An unlisted byte has no known
value (R32, U7). -/
abbrev Memory := List Host.Cell

/-- The canonical form: indexes strictly rising. -/
abbrev Memory.wf (m : Memory) : Prop := m.Pairwise fun a b => a.1 < b.1

/-- The whole state. -/
structure State where
  /-- The configuration registers, constant after hardware reset (R34, R35). -/
  cfg : Configuration
  /-- MADCTL, the mode register (R22). -/
  madctl : Byte
  /-- CONV_BUF, the scratch conversion buffer (R31, R32). -/
  convBuf : Memory
  /-- The level of the reset line (R184, R38). -/
  resetLine : Level
  /-- The operation in progress with its phase, none between requests (R27, R38). -/
  current : Option Operation
  /-- Whether the engine exists: false after teardown (R234). -/
  alive : Bool
  /-- The output events so far, oldest first (R11, R63). -/
  trace : List Event
  /-- The completions so far, oldest first (R98, R252). -/
  completions : List Completion
  /-- Input: what the caller will do, next first (R28). -/
  caller : List CallerEvent
  /-- Input: what the transport will answer, next first (R12, R183). -/
  answers : List Answer
  /-- Ghost `ctrl_defined` (R37): no rule reads it. -/
  ctrlDefined : Bool
  /-- Ghost `ctrl_window`, columns (R37): no rule reads it. -/
  ctrlColumns : Option (Half × Half)
  /-- Ghost `ctrl_window`, rows (R37): no rule reads it. -/
  ctrlRows : Option (Half × Half)
  deriving DecidableEq, Repr

/-- Why the machine has no next step. -/
inductive Fault where
  /-- Raised by a transaction already handed to a transport that never answers it: the request never completes and no later
  one starts (R183, R251; U11 "stuck"). Safe: nothing is claimed of what follows. -/
  | transportSilent
  deriving DecidableEq, Repr

/-- Why a situation has no meaning. Every one is safe: the spec tells a model to refuse it, so nothing is claimed. -/
inductive Refusal where
  /-- Raised by an arm of `exec` whose instruction has no meaning yet (none has). -/
  | notModelled (mnemonic : String)
  /-- Raised by the fetch of a request header outside the table of R72 (R74, U9). -/
  | reservedHeader (header : Byte)
  /-- Raised by the fetch of a request without exactly its operand values (R75; the typed interface cannot express it, D22). -/
  | wrongOperandCount (header : Byte)
  /-- Raised by the fetch of an outstanding transaction that the engine never emits (R80, R99); no run reaches it. -/
  | unknownTransaction
  /-- Raised by DRAW on an empty or inverted rectangle (R152 condition 1, R153, U1). -/
  | emptyRectangle
  /-- Raised by DRAW when an end coordinate plus its gap exceeds 65536 (R152 condition 2, R153, U2). -/
  | coordinateOverflow
  /-- Raised by DRAW when the pixel list has not exactly W * H entries (R152 condition 3, R153, U3). -/
  | pixelCountMismatch
  /-- Raised by a request while another is in progress (R245, U8); the fetch never starts one. -/
  | overlappingRequest
  /-- Raised by anything asked of an engine that was destroyed (R234, U10). -/
  | afterTeardown
  deriving DecidableEq, Repr

/-- Low or high of a bit. -/
def Level.ofBool (b : Bool) : Level := if b then .high else .low

/-- The engine right after a successful construction with configuration `c` (R230, R233, R38). -/
def State.built (c : Configuration) : State where
  cfg := c
  madctl := c.madctlDefault
  convBuf := []
  resetLine := Level.ofBool Config.resetLineAtReset
  current := none
  alive := true
  trace := []
  completions := []
  caller := []
  answers := []
  ctrlDefined := false
  ctrlColumns := none
  ctrlRows := none

/-- The machine right after hardware reset, for a configuration nothing is known of (R38). -/
def State.reset : State := State.built Config.configured

end Sys2Proof.Machine
end

