-- ==== Sys2Proof/Machine/Ops.lean ====
section
/-! DEFINITION. The named operations of the engine: the scratch buffer, the output ports (spec 43_transport_adapter.md), running
an operation's steps, ending it with a completion (60_exceptions.md R207 to R211, the one shared abort), and the guards
of a request. -/

namespace Sys2Proof.Machine

/-- The outcome of a meaning. -/
abbrev Result := Host.Outcome State Fault Refusal

/-! ## The scratch buffer -/

/-- The byte known to stand at an index of CONV_BUF, if any. -/
def readByte : Memory → Nat → Option Byte
  | [], _ => none
  | (x, v) :: m, a => if x = a then some v else readByte m a

/-- Write one byte of CONV_BUF, keeping the indexes strictly rising. -/
def writeByte : Memory → Nat → Byte → Memory
  | [], a, b => [(a, b)]
  | (x, v) :: m, a, b =>
    if a < x then (a, b) :: (x, v) :: m
    else if a = x then (a, b) :: m
    else (x, v) :: writeByte m a b

/-- Write bytes at consecutive indexes from `a` (R160). -/
def writeBytes : Memory → Nat → List Byte → Memory
  | m, _, [] => m
  | m, a, b :: bs => writeBytes (writeByte m a b) (a + 1) bs

/-- The byte CONV_BUF holds at an index: the known one, else any value (U7). -/
def scratchByte (s : State) (a : Nat) : Byte :=
  (readByte s.convBuf a).getD (Config.scratchByte s.completions.length a)

/-- `CONV_BUF[0 .. 3n-1]` (R151 phase 4). -/
def scratchBytes (s : State) (n : Nat) : List Byte := (List.range (3 * n)).map (scratchByte s)

/-- Convert pixels into CONV_BUF from index 0: pixel i becomes bytes 3i, 3i+1, 3i+2 (R160). -/
def State.convertPixels (s : State) (pixels : List Half) : State :=
  { s with convBuf := writeBytes s.convBuf 0 (convAll pixels) }

/-! ## The output ports -/

/-- Append an output event to the trace (R11, R63). -/
def State.emit (s : State) (e : Event) : State := { s with trace := s.trace ++ [e] }

/-- `Rst(level)`: the event, and the line takes the level (R184). -/
def State.driveReset (s : State) (l : Level) : State := { s.emit (.rst l) with resetLine := l }

/-- The window ranges the ghost state holds after a transaction answered OK (R37). -/
def State.noteWindow (s : State) (t : Txn) : State :=
  if t.cmd = some (commandByte .caset) then { s with ctrlColumns := parseCoord8 t.data }
  else if t.cmd = some (commandByte .raset) then { s with ctrlRows := parseCoord8 t.data }
  else s

/-- A transaction answered OK: the event with its answer enters the trace and the answer is consumed (R181 to R183). -/
def State.accepted (s : State) (t : Txn) (rest : List Answer) : State :=
  ({ s with answers := rest }.emit (.tx t .ok)).noteWindow t

/-- A transaction answered FAIL: the event with its answer enters the trace and the answer is consumed (R181 to R183). -/
def State.failed (s : State) (t : Txn) (rest : List Answer) : State :=
  { s with answers := rest }.emit (.tx t .fail)

/-- A transaction handed to the transport that has not answered: the operation stays in progress at its phase (R183, R63). -/
def State.waitFor (s : State) (k : OpKind) (phase : Nat) (t : Txn) (rest : List Action) : State :=
  { s with current := some ⟨k, phase, t, rest⟩ }

/-! ## Ending an operation -/

/-- Append the completion of a request; a bare transaction has none (R98, R221). -/
def State.report (s : State) (k : OpKind) (c : Completion) : State :=
  if k = .bare then s else { s with completions := s.completions ++ [c] }

/-- What the end of an operation does to CONV_BUF: after a DRAW its content is unspecified, no other operation touches it
(R32, R208, U7). -/
def State.releaseScratch (s : State) (k : OpKind) : State := if k = .draw then { s with convBuf := [] } else s

/-- What the end of an operation does to the ghost state (R37, U4, U5; notes/assumptions/8.md). -/
def State.noteEnd (s : State) (k : OpKind) (c : Completion) : State :=
  match k, c with
  | .init, .ok => { s with ctrlDefined := true }
  | .init, .transportFailure _ _ => { s with ctrlDefined := false }
  | .draw, .transportFailure _ _ => { s with ctrlDefined := false, ctrlColumns := none, ctrlRows := none }
  | _, _ => s

/-- End the operation with a completion: no later step of it runs, nothing is undone, nothing is saved, and the engine is at
once ready for the next request (R207, R208, R211). -/
def State.finish (s : State) (k : OpKind) (c : Completion) : State :=
  (({ s with current := none }.report k c).releaseScratch k).noteEnd k c

/-! ## Running an operation -/

/-- Attempt one transaction (R181 to R183): without an answer the operation waits, FAIL ends it with TRANSPORT_FAILURE
carrying the command and the phase (R203, R207), OK goes on with `next`. -/
def attempt (k : OpKind) (phase : Nat) (t : Txn) (rest : List Action) (next : State → State) (s : State) : State :=
  match s.answers with
  | [] => s.waitFor k phase t rest
  | .ok :: as => next (s.accepted t as)
  | .fail :: as => (s.failed t as).finish k (.transportFailure t.cmd phase)

/-- Run the steps of an operation in order, from the given phase, as far as the transport has answered (R19, R27, R63). The bytes
of a transaction are those of the moment it is handed over, and nothing alters them later: the spec's assumption of capture at
submission (R246, D19), listed by name in notes/assumptions/14.md. -/
def run (k : OpKind) (phase : Nat) : List Action → State → State
  | [], s => s.finish k .ok
  | .tx t :: rest, s => attempt k phase t rest (fun s' => run k (phase + 1) rest s') s
  | .txScratch n :: rest, s =>
    attempt k phase (payloadTxn (scratchBytes s n)) rest (fun s' => run k (phase + 1) rest s') s
  | .rst l :: rest, s => run k phase rest (s.driveReset l)
  | .delay ms :: rest, s => run k phase rest (s.emit (.delay ms))
  | .convert px :: rest, s => run k phase rest (s.convertPixels px)
  | .setMadctl m :: rest, s => run k phase rest { s with madctl := m }

/-- The guard of every request: the engine exists (R234) and no request is in progress (R245). -/
def guarded (s : State) (go : Result) : Result :=
  match s.alive, s.current with
  | false, _ => .refused .afterTeardown
  | true, some _ => .refused .overlappingRequest
  | true, none => go

/-- A wire row: attempt its transaction. In an operation in progress it is that operation's outstanding transaction, and on OK
the operation goes on (R27); a transport that never answers it leaves no next step (U11). With no operation in progress it
is a transaction on its own (notes/assumptions/7.md). -/
def transmit (t : Txn) (s : State) : Result :=
  match s.alive, s.current with
  | false, _ => .refused .afterTeardown
  | true, none => .next (run .bare 1 [.tx t] s)
  | true, some op =>
    match s.answers with
    | [] => .fault .transportSilent
    | _ :: _ => .next (run op.kind op.phase (.tx t :: op.rest) s)

/-! ## Construction and teardown -/

/-- The result of construction: the error, or the new engine (R231 to R233). -/
inductive Construction where
  | failed (c : Completion)
  | built (s : State)
  deriving DecidableEq, Repr

/-- Construction (R230 to R233): the handle check first (D16), then the allocation, then the state of R38; nothing is
emitted. -/
def construct (c : Configuration) (transportPresent allocationSucceeds : Bool) : Construction :=
  if transportPresent = false then .failed .invalidArgument
  else if allocationSucceeds = false then .failed .outOfMemory
  else .built (State.built c)

/-- Teardown (R234): CONV_BUF is released and the engine ceases to exist; nothing is emitted. -/
def State.teardown (s : State) : State := { s with alive := false, convBuf := [] }

/-- The numeric code of a completion (R98, D11). -/
def completionCode : Completion → Nat
  | .ok => 0
  | .invalidArgument => 1
  | .outOfMemory => 2
  | .transportFailure _ _ => 3
  | .sizeLimitExceeded => 4

end Sys2Proof.Machine
end

