-- ==== Sys2Proof/Machine/Blit.lean ====
section
/-! DEFINITION. The blit engine: DRAW (spec 42_blit.md). -/

namespace Sys2Proof.Machine

/-- Why a DRAW is outside the valid domain, if it is (R152, R153): empty or inverted, a coordinate that does not fit 16 bits, a
pixel list of another length. -/
def drawRefusal (c : Configuration) (xs ys xe ye : Half) (px : List Half) : Option Refusal :=
  if ¬(xs.toNat < xe.toNat ∧ ys.toNat < ye.toNat) then some .emptyRectangle
  else if ¬(xe.toNat + c.xGap.toNat ≤ 65536 ∧ ye.toNat + c.yGap.toNat ≤ 65536) then some .coordinateOverflow
  else if px.length ≠ pixelCount xs ys xe ye then some .pixelCountMismatch
  else none

/-- DRAW's steps: column window, row window, conversion into CONV_BUF, memory write, payload (R151). -/
def drawScript (c : Configuration) (xs ys xe ye : Half) (px : List Half) : List Action :=
  [.tx (wireTxn .caset (coord8 (windowFirst xs c.xGap) (windowLast xe c.xGap))),
   .tx (wireTxn .raset (coord8 (windowFirst ys c.yGap) (windowLast ye c.yGap))),
   .convert px,
   .tx (wireTxn .ramwr []),
   .txScratch (pixelCount xs ys xe ye)]

/-- A DRAW over the capacity completes SIZE_LIMIT_EXCEEDED with no event and no change of state (R154, R204). -/
def sizeLimit (s : State) : State := { s with completions := s.completions ++ [.sizeLimitExceeded] }

/-- DRAW: first the domain, then the capacity, then the transactions (R151, R153, R154, R165). -/
def execDraw (xs ys xe ye : Half) (px : List Half) (s : State) : Result :=
  guarded s <|
    match drawRefusal s.cfg xs ys xe ye px with
    | some r => .refused r
    | none =>
      .next <|
        if pixelCount xs ys xe ye > s.cfg.capPixels.toNat then sizeLimit s
        else run .draw 1 (drawScript s.cfg xs ys xe ye px) s

end Sys2Proof.Machine
end

