-- ==== Sys2Proof/Machine/Flags.lean ====
section
/-! DEFINITION. The engine has no status flags (spec 10_state.md R29). This file holds the fields of its one control
register, the mode register MADCTL (R22), and the two field updates (41_orientation.md R131, R136). -/

namespace Sys2Proof.Machine

/-- Bit 7, mirror-Y (R22). -/
def mirrorY (m : Byte) : Bool := m.getLsbD 7

/-- Bit 6, mirror-X (R22). -/
def mirrorX (m : Byte) : Bool := m.getLsbD 6

/-- Bit 5, swap-axes (R22). -/
def swapAxes (m : Byte) : Bool := m.getLsbD 5

/-- Bits 4:0, the colour order and other fixed bits (R22, R24). -/
def fixedBits (m : Byte) : BitVec 5 := m.extractLsb' 0 5

/-- `y ++ x ++ old[5:0]` (R131, R132). -/
def withMirror (old : Byte) (x y : Bool) : Byte := BitVec.ofBool y ++ BitVec.ofBool x ++ old.extractLsb' 0 6

/-- `old[7:6] ++ s ++ old[4:0]` (R136). -/
def withSwap (old : Byte) (s : Bool) : Byte := old.extractLsb' 6 2 ++ BitVec.ofBool s ++ old.extractLsb' 0 5

end Sys2Proof.Machine
end

