-- ==== Sys2Proof/Machine/Orientation.lean ====
section
/-! DEFINITION. The orientation state machine and the pass-through commands: SET_MIRROR, SET_SWAP_AXES, INVERT_COLOR,
DISPLAY_POWER (spec 41_orientation.md). -/

namespace Sys2Proof.Machine

/-- Transmit a new mode register value, and write MADCTL only when it was answered OK: the form R134 allows for update,
transmission and rollback as one atomic step. -/
def modeScript (m : Byte) : List Action := [.tx (wireTxn .madctl [m]), .setMadctl m]

/-- SET_MIRROR (R131, R132): both mirror bits take their operand, the other bits are kept; always transmitted (R133). -/
def execSetMirror (x y : Bool) (s : State) : Result :=
  guarded s (.next (run .setMirror 1 (modeScript (withMirror s.madctl x y)) s))

/-- SET_SWAP_AXES (R136): bit 5 takes the operand, the other bits are kept; always transmitted (R137). -/
def execSetSwapAxes (swap : Bool) (s : State) : Result :=
  guarded s (.next (run .setSwapAxes 1 (modeScript (withSwap s.madctl swap)) s))

/-- INVERT_COLOR (R140): 0x21 for on, 0x20 for off; no register is written. -/
def execInvertColor (on : Bool) (s : State) : Result :=
  guarded s (.next (run .invertColor 1 [.tx (wireTxn (if on then .invon else .invoff) [])] s))

/-- DISPLAY_POWER (R143): 0x29 for on, 0x28 for off; no delay (R144), no register is written. -/
def execDisplayPower (on : Bool) (s : State) : Result :=
  guarded s (.next (run .displayPower 1 [.tx (wireTxn (if on then .dispon else .dispoff) [])] s))

end Sys2Proof.Machine
end

