-- ==== Sys2Proof/Machine/Sequencer.lean ====
section
/-! DEFINITION. The initialization sequencer: RESET and INIT (spec 40_init_sequencer.md). -/

namespace Sys2Proof.Machine

/-- RESET: low, settle, high, settle; nothing at all without a reset line (R111, R113). -/
def resetScript (c : Configuration) : List Action :=
  if c.hasRst then [.rst .low, .delay c.resetDelayMs, .rst .high, .delay c.resetDelayMs] else []

/-- RESET changes no engine state and always completes OK (R111 to R114). -/
def execReset (s : State) : Result := guarded s (.next (run .reset 1 (resetScript s.cfg) s))

/-- The transaction of one entry of the vendor table (R88, R117). -/
def vendorTxn (e : VendorEntry) : Txn := wireTxn (.vendor e.cmd) e.bytes

/-- INIT's steps with the mode register value `m` (R116, R118, R119). -/
def initScript (c : Configuration) (m : Byte) : List Action :=
  [.tx (wireTxn .swreset []), .delay 120, .tx (wireTxn .slpout []), .delay 20] ++
    c.vendorTable.map (fun e => .tx (vendorTxn e)) ++
    [.tx (wireTxn .pixfmt [pixelFormat]), .tx (wireTxn .madctl [m]), .tx (wireTxn .dispon []), .delay 20]

/-- INIT transmits the whole sequence with the current MADCTL and writes no state (R116, R118, R120, R122). -/
def execInit (s : State) : Result := guarded s (.next (run .init 1 (initScript s.cfg s.madctl) s))

end Sys2Proof.Machine
end

