-- ==== Sys2Proof/Machine/Wire.lean ====
section
/-! DEFINITION. The wire rows of the opcode table: the twenty-one commands and the command-less payload, each one
transaction of the transport port (spec 30_encoding.md R80 to R89, 43_transport_adapter.md R180 to R183). -/

namespace Sys2Proof.Machine

/-- 0x01 software reset (R81). -/
def execSwreset (s : State) : Result := transmit (wireTxn .swreset []) s

/-- 0x11 sleep out (R82). -/
def execSlpout (s : State) : Result := transmit (wireTxn .slpout []) s

/-- 0x20 colour invert off (R89). -/
def execInvoff (s : State) : Result := transmit (wireTxn .invoff []) s

/-- 0x21 colour invert on (R89). -/
def execInvon (s : State) : Result := transmit (wireTxn .invon []) s

/-- 0x28 display off (R85). -/
def execDispoff (s : State) : Result := transmit (wireTxn .dispoff []) s

/-- 0x29 display on (R85). -/
def execDispon (s : State) : Result := transmit (wireTxn .dispon []) s

/-- 0x2A column address set on the COLOR primitive (R86, C1). -/
def execCaset (first last : Half) (s : State) : Result := transmit (wireTxn .caset (coord8 first last)) s

/-- 0x2B row address set on the COLOR primitive (R86, C1). -/
def execRaset (first last : Half) (s : State) : Result := transmit (wireTxn .raset (coord8 first last)) s

/-- 0x2C memory write without data (R87). -/
def execRamwr (s : State) : Result := transmit (wireTxn .ramwr []) s

/-- 0x36 with the whole mode register byte (R84). -/
def execMadctl (mode : Byte) (s : State) : Result := transmit (wireTxn .madctl [mode]) s

/-- 0x3A with the constant 0x66 (R83). -/
def execPixfmt (s : State) : Result := transmit (wireTxn .pixfmt [pixelFormat]) s

/-- 0xB0 vendor configuration with the table's bytes (R88). -/
def execVendorB0 (bytes : List Byte) (s : State) : Result := transmit (wireTxn (.vendor .b0) bytes) s

/-- 0xB1 vendor configuration with the table's bytes (R88). -/
def execVendorB1 (bytes : List Byte) (s : State) : Result := transmit (wireTxn (.vendor .b1) bytes) s

/-- 0xB4 vendor configuration with the table's bytes (R88). -/
def execVendorB4 (bytes : List Byte) (s : State) : Result := transmit (wireTxn (.vendor .b4) bytes) s

/-- 0xB6 vendor configuration with the table's bytes (R88). -/
def execVendorB6 (bytes : List Byte) (s : State) : Result := transmit (wireTxn (.vendor .b6) bytes) s

/-- 0xB7 vendor configuration with the table's bytes (R88). -/
def execVendorB7 (bytes : List Byte) (s : State) : Result := transmit (wireTxn (.vendor .b7) bytes) s

/-- 0xC0 vendor configuration with the table's bytes (R88). -/
def execVendorC0 (bytes : List Byte) (s : State) : Result := transmit (wireTxn (.vendor .c0) bytes) s

/-- 0xC1 vendor configuration with the table's bytes (R88). -/
def execVendorC1 (bytes : List Byte) (s : State) : Result := transmit (wireTxn (.vendor .c1) bytes) s

/-- 0xC5 vendor configuration with the table's bytes (R88). -/
def execVendorC5 (bytes : List Byte) (s : State) : Result := transmit (wireTxn (.vendor .c5) bytes) s

/-- 0xE0 vendor configuration with the table's bytes (R88). -/
def execVendorE0 (bytes : List Byte) (s : State) : Result := transmit (wireTxn (.vendor .e0) bytes) s

/-- 0xE1 vendor configuration with the table's bytes (R88). -/
def execVendorE1 (bytes : List Byte) (s : State) : Result := transmit (wireTxn (.vendor .e1) bytes) s

/-- The pixel payload on the COLOR primitive, no command byte (R87, R162). -/
def execPayload (bytes : List Byte) (s : State) : Result := transmit (payloadTxn bytes) s

end Sys2Proof.Machine
end

