-- ==== Sys2Proof/Machine/Dispatch.lean ====
section
/-! DEFINITION. One arm per instruction: the meaning of every row of the opcode table. -/

namespace Sys2Proof.Machine

def exec (i : Instr) (s : State) : Host.Outcome State Fault Refusal :=
  match i with
  | .reset => Sys2Proof.Machine.execReset s
  | .init => Sys2Proof.Machine.execInit s
  | .draw xs ys xe ye px => Sys2Proof.Machine.execDraw xs ys xe ye px s
  | .setMirror x y => Sys2Proof.Machine.execSetMirror x y s
  | .setSwapAxes swap => Sys2Proof.Machine.execSetSwapAxes swap s
  | .invertColor on => Sys2Proof.Machine.execInvertColor on s
  | .displayPower on => Sys2Proof.Machine.execDisplayPower on s
  | .swreset => Sys2Proof.Machine.execSwreset s
  | .slpout => Sys2Proof.Machine.execSlpout s
  | .invoff => Sys2Proof.Machine.execInvoff s
  | .invon => Sys2Proof.Machine.execInvon s
  | .dispoff => Sys2Proof.Machine.execDispoff s
  | .dispon => Sys2Proof.Machine.execDispon s
  | .caset first last => Sys2Proof.Machine.execCaset first last s
  | .raset first last => Sys2Proof.Machine.execRaset first last s
  | .ramwr => Sys2Proof.Machine.execRamwr s
  | .madctl mode => Sys2Proof.Machine.execMadctl mode s
  | .pixfmt => Sys2Proof.Machine.execPixfmt s
  | .vendorB0 bytes => Sys2Proof.Machine.execVendorB0 bytes s
  | .vendorB1 bytes => Sys2Proof.Machine.execVendorB1 bytes s
  | .vendorB4 bytes => Sys2Proof.Machine.execVendorB4 bytes s
  | .vendorB6 bytes => Sys2Proof.Machine.execVendorB6 bytes s
  | .vendorB7 bytes => Sys2Proof.Machine.execVendorB7 bytes s
  | .vendorC0 bytes => Sys2Proof.Machine.execVendorC0 bytes s
  | .vendorC1 bytes => Sys2Proof.Machine.execVendorC1 bytes s
  | .vendorC5 bytes => Sys2Proof.Machine.execVendorC5 bytes s
  | .vendorE0 bytes => Sys2Proof.Machine.execVendorE0 bytes s
  | .vendorE1 bytes => Sys2Proof.Machine.execVendorE1 bytes s
  | .payload bytes => Sys2Proof.Machine.execPayload bytes s

end Sys2Proof.Machine
end

