-- ==== Sys2Proof/WellFormed.lean ====
section
/-! DEFINITION. Which instructions are well formed as syntax: the operand checks that do not depend on the
configuration (spec 42_blit.md R152 conditions 1 and 3, R156, R157; 30_encoding.md R94). -/

namespace Sys2Proof

/-- Well-formed instructions: a DRAW names a non-empty rectangle and brings exactly its pixels (R75, R152); a window
command runs from start to an inclusive end not below it (R156, R157); a payload is a non-empty list of converted
pixels (R94, R182). -/
def Instr.wellFormed : Instr → Bool
  | .draw xs ys xe ye px =>
    decide (xs.toNat < xe.toNat) && decide (ys.toNat < ye.toNat) && decide (px.length = Machine.pixelCount xs ys xe ye)
  | .caset a b => decide (a.toNat ≤ b.toNat)
  | .raset a b => decide (a.toNat ≤ b.toNat)
  | .payload d => !d.isEmpty && Machine.pixelBytesOk d
  | .reset | .init | .setMirror _ _ | .setSwapAxes _ | .invertColor _ | .displayPower _ => true
  | .swreset | .slpout | .invoff | .invon | .dispoff | .dispon | .ramwr | .madctl _ | .pixfmt => true
  | .vendorB0 _ | .vendorB1 _ | .vendorB4 _ | .vendorB6 _ | .vendorB7 _ => true
  | .vendorC0 _ | .vendorC1 _ | .vendorC5 _ | .vendorE0 _ | .vendorE1 _ => true

end Sys2Proof
end

