-- ==== Sys2Proof/Decode.lean ====
section
/-! DEFINITION. Decoding and encoding of request frames and transactions (spec 30_encoding.md R72 to R80, R99). The
decoder is total and rejects by name; the encoder is written from the same tables. -/

namespace Sys2Proof

/-- Why a frame is no instruction. -/
inductive DecodeError where
  /-- A request header outside the table of R72 (R74). -/
  | reservedHeader (header : Byte)
  /-- A request with more or fewer operand values than its one length (R75). -/
  | wrongOperandCount (header : Byte)
  /-- A command byte the engine never emits (R80, R99). -/
  | unknownCommand (cmd : Byte)
  /-- A kind or data that the row of the command does not have (R57, R77). -/
  | wrongForm (t : Txn)
  deriving DecidableEq, Repr

/-- The result of decoding a frame. -/
inductive Decoded where
  | ok (i : Instr)
  | rejected (e : DecodeError)
  deriving DecidableEq, Repr

/-- A request without operand values whose unused header bits (`unused`) are zero (R72). -/
def plainRequest (f : ReqFrame) (unused : Byte) (i : Instr) : Decoded :=
  if f.header &&& unused ≠ 0#8 then .rejected (.reservedHeader f.header)
  else if f.words ≠ [] then .rejected (.wrongOperandCount f.header)
  else .ok i

/-- DRAW: the four coordinates in the order of the signature, then the pixel values (R72). -/
def drawRequest (f : ReqFrame) : Decoded :=
  if f.header &&& 0x0F#8 ≠ 0#8 then .rejected (.reservedHeader f.header)
  else match f.words with
    | xs :: ys :: xe :: ye :: px => .ok (.draw xs ys xe ye px)
    | _ => .rejected (.wrongOperandCount f.header)

/-- A request: `h[7:4]` selects the operation, `h[3:0]` carries the booleans, unused bits are 0; every other header is
reserved (R72, R74). -/
def decodeRequest (f : ReqFrame) : Decoded :=
  match (f.header.extractLsb' 4 4).toNat with
  | 0 => plainRequest f 0x0F#8 .reset
  | 1 => plainRequest f 0x0F#8 .init
  | 2 => drawRequest f
  | 3 => plainRequest f 0x0C#8 (.setMirror (f.header.getLsbD 0) (f.header.getLsbD 1))
  | 4 => plainRequest f 0x0E#8 (.setSwapAxes (f.header.getLsbD 0))
  | 5 => plainRequest f 0x0E#8 (.invertColor (f.header.getLsbD 0))
  | 6 => plainRequest f 0x0E#8 (.displayPower (f.header.getLsbD 0))
  | _ => .rejected (.reservedHeader f.header)

/-- The ten vendor commands in the order the spec lists them (R88). -/
def vendorCommands : List VendorCmd := [.b0, .b1, .b4, .b6, .b7, .c0, .c1, .c5, .e0, .e1]

/-- Every command the engine can emit (R80). -/
def commands : List Command :=
  [.swreset, .slpout, .invoff, .invon, .dispoff, .dispon, .caset, .raset, .ramwr, .madctl, .pixfmt] ++
    vendorCommands.map .vendor

/-- The command with a given opcode byte, if the engine emits one (R80). -/
def commandOfByte (b : Byte) : Option Command := commands.find? fun c => Machine.commandByte c == b

/-- The instruction of a vendor command (R88). -/
def vendorInstr : VendorCmd → List Byte → Instr
  | .b0, d => .vendorB0 d
  | .b1, d => .vendorB1 d
  | .b4, d => .vendorB4 d
  | .b6, d => .vendorB6 d
  | .b7, d => .vendorB7 d
  | .c0, d => .vendorC0 d
  | .c1, d => .vendorC1 d
  | .c5, d => .vendorC5 d
  | .e0, d => .vendorE0 d
  | .e1, d => .vendorE1 d

/-- The instruction of a command with its data, if the data has the command's form (R57, R80). -/
def commandInstr : Command → List Byte → Option Instr
  | .swreset, [] => some .swreset
  | .slpout, [] => some .slpout
  | .invoff, [] => some .invoff
  | .invon, [] => some .invon
  | .dispoff, [] => some .dispoff
  | .dispon, [] => some .dispon
  | .ramwr, [] => some .ramwr
  | .madctl, [m] => some (.madctl m)
  | .pixfmt, [b] => if b = Machine.pixelFormat then some .pixfmt else none
  | .caset, d => (Machine.parseCoord8 d).map fun w => .caset w.1 w.2
  | .raset, d => (Machine.parseCoord8 d).map fun w => .raset w.1 w.2
  | .vendor v, d => some (vendorInstr v d)
  | .swreset, _ | .slpout, _ | .invoff, _ | .invon, _ | .dispoff, _ | .dispon, _ | .ramwr, _ => none
  | .madctl, _ | .pixfmt, _ => none

/-- A transaction with a command byte: the kind must be the command's own (R77, R80). -/
def decodeCommand (t : Txn) (b : Byte) : Decoded :=
  match commandOfByte b with
  | none => .rejected (.unknownCommand b)
  | some c =>
    if t.kind = Machine.commandKind c then
      match commandInstr c t.data with
      | some i => .ok i
      | none => .rejected (.wrongForm t)
    else .rejected (.wrongForm t)

/-- A transaction: with a command byte it is that command's row, without one it is the payload (R76, R87). -/
def decodeTxn (t : Txn) : Decoded :=
  match t.cmd with
  | some b => decodeCommand t b
  | none =>
    if t.kind = .color ∧ (Instr.payload t.data).wellFormed = true then .ok (.payload t.data)
    else .rejected (.wrongForm t)

/-- The decoder, total on every frame. -/
def decode : Frame → Decoded
  | .req f => decodeRequest f
  | .txn t => decodeTxn t

/-- A boolean operand is one bit, `true` is 1 (R72). -/
def boolBit (b : Bool) (k : Nat) : Byte := if b then 1#8 <<< k else 0#8

/-- The encoder: the frame of an instruction (R72, R80 to R90). -/
def encode : Instr → Frame
  | .reset => .req ⟨0x00#8, []⟩
  | .init => .req ⟨0x10#8, []⟩
  | .draw xs ys xe ye px => .req ⟨0x20#8, xs :: ys :: xe :: ye :: px⟩
  | .setMirror x y => .req ⟨0x30#8 ||| boolBit y 1 ||| boolBit x 0, []⟩
  | .setSwapAxes s => .req ⟨0x40#8 ||| boolBit s 0, []⟩
  | .invertColor v => .req ⟨0x50#8 ||| boolBit v 0, []⟩
  | .displayPower p => .req ⟨0x60#8 ||| boolBit p 0, []⟩
  | .swreset => .txn (Machine.wireTxn .swreset [])
  | .slpout => .txn (Machine.wireTxn .slpout [])
  | .invoff => .txn (Machine.wireTxn .invoff [])
  | .invon => .txn (Machine.wireTxn .invon [])
  | .dispoff => .txn (Machine.wireTxn .dispoff [])
  | .dispon => .txn (Machine.wireTxn .dispon [])
  | .caset a b => .txn (Machine.wireTxn .caset (Machine.coord8 a b))
  | .raset a b => .txn (Machine.wireTxn .raset (Machine.coord8 a b))
  | .ramwr => .txn (Machine.wireTxn .ramwr [])
  | .madctl m => .txn (Machine.wireTxn .madctl [m])
  | .pixfmt => .txn (Machine.wireTxn .pixfmt [Machine.pixelFormat])
  | .vendorB0 d => .txn (Machine.wireTxn (.vendor .b0) d)
  | .vendorB1 d => .txn (Machine.wireTxn (.vendor .b1) d)
  | .vendorB4 d => .txn (Machine.wireTxn (.vendor .b4) d)
  | .vendorB6 d => .txn (Machine.wireTxn (.vendor .b6) d)
  | .vendorB7 d => .txn (Machine.wireTxn (.vendor .b7) d)
  | .vendorC0 d => .txn (Machine.wireTxn (.vendor .c0) d)
  | .vendorC1 d => .txn (Machine.wireTxn (.vendor .c1) d)
  | .vendorC5 d => .txn (Machine.wireTxn (.vendor .c5) d)
  | .vendorE0 d => .txn (Machine.wireTxn (.vendor .e0) d)
  | .vendorE1 d => .txn (Machine.wireTxn (.vendor .e1) d)
  | .payload d => .txn (Machine.payloadTxn d)

/-- The request frame of a table word: the header byte, and operand values of zero where the operation has operands
(R72). -/
def tableRequest (w : Nat) : ReqFrame :=
  ⟨BitVec.ofNat 8 w, if w % 256 = 0x20 then [0#16, 0#16, 0#16, 0#16] else []⟩

/-- The data of a table row's transaction with its operands zero; the pixel-format byte is no operand (R83). -/
def tableData : Command → List Byte
  | .caset | .raset => Machine.coord8 0#16 0#16
  | .madctl => [0#8]
  | .pixfmt => [Machine.pixelFormat]
  | .swreset | .slpout | .invoff | .invon | .dispoff | .dispon | .ramwr | .vendor _ => []

/-- The transaction of a table word, if the word is a command byte. -/
def tableTxn (w : Nat) : Option Txn :=
  (commandOfByte (BitVec.ofNat 8 w)).map fun c => Machine.wireTxn c (tableData c)

/-- The frame a table word stands for: a request where the word is a request header, else the transaction of the
command byte; the row without a word is the payload of one black pixel (notes/assumptions/9.md). -/
def tableFrame (nbits w : Nat) : Frame :=
  if nbits = 0 then .txn (Machine.payloadTxn [0#8, 0#8, 0#8])
  else match decodeRequest (tableRequest w), tableTxn w with
    | .rejected _, some t => .txn t
    | _, _ => .req (tableRequest w)

/-- The instruction the decoder reads from a word of the opcode table. -/
def decodeTableWord (nbits w : Nat) : Option Instr :=
  match decode (tableFrame nbits w) with
  | .ok i => some i
  | .rejected _ => none

end Sys2Proof
end

