-- ==== Sys2Proof/Machine/Fetch.lean ====
section
/-! DEFINITION. What the machine does next: the outstanding transaction of the operation in progress, else the caller's next
event (spec 10_state.md R27, R28; 00_scope.md R19). -/

namespace Sys2Proof.Machine

/-- The next thing to do, and the state it starts from. -/
inductive Fetched where
  /-- No request is in progress and nothing is asked: the engine is idle, or destroyed (notes/assumptions/13.md). -/
  | idle
  /-- The caller destroys the engine (R234). -/
  | teardown (s : State)
  /-- A frame to decode and run. -/
  | frame (f : Frame) (s : State)
  deriving DecidableEq, Repr

/-- An operation in progress goes on with its outstanding transaction before any other request starts (R19, R63); otherwise the
caller's next event is taken (R28). -/
def fetch (s : State) : Fetched :=
  match s.current, s.caller with
  | some op, _ => .frame (.txn op.tx) s
  | none, [] => .idle
  | none, .request f :: more => .frame (.req f) { s with caller := more }
  | none, .teardown :: more => .teardown { s with caller := more }

/-- The refusal of a frame that is no instruction (R74, R75, R99). -/
def decodeRefusal : DecodeError → Refusal
  | .reservedHeader h => .reservedHeader h
  | .wrongOperandCount h => .wrongOperandCount h
  | .unknownCommand _ | .wrongForm _ => .unknownTransaction

/-- Teardown as a step: an engine that was destroyed cannot be destroyed again (R234, U10). -/
def teardownStep (s : State) : Result := if s.alive then .next s.teardown else .refused .afterTeardown

/-- A decoded frame is run by `go`; a rejected one is refused, after teardown under that name (R74, U10). -/
def runDecoded (s : State) (go : Instr → State → Result) : Decoded → Result
  | .ok i => go i s
  | .rejected e => .refused (if s.alive then decodeRefusal e else .afterTeardown)

/-- One step, with `go` running a decoded instruction; an idle engine with nothing asked stays as it is (R186, R220). A destroyed
engine with nothing asked stays as it is too: DESIGN CHOICE, the spec says only that teardown ends the run (R234, U10;
notes/assumptions/13.md). -/
def stepWith (go : Instr → State → Result) (s : State) : Result :=
  match fetch s with
  | .idle => .next s
  | .teardown s' => teardownStep s'
  | .frame f s' => runDecoded s' go (decode f)

/-- Place a frame where the next step fetches: a request goes to the head of the caller's stream; a transaction becomes the
outstanding one of an operation of its own, with one OK answer if none is there (notes/assumptions/9.md). -/
def State.place (s : State) : Frame → State
  | .req f => { s with current := none, alive := true, caller := .request f :: s.caller }
  | .txn t =>
    { s with current := some ⟨.bare, 1, t, []⟩, alive := true,
             answers := if s.answers.isEmpty then [.ok] else s.answers }

end Sys2Proof.Machine
end

