-- ==== Sys2Proof/Machine/Step.lean ====
section
/-! DEFINITION. One step of the machine (spec 00_scope.md R19), and the placing of a table word where it fetches. -/

namespace Sys2Proof.Machine

/-- One step: fetch, decode, run. -/
def step (s : State) : Host.Outcome State Fault Refusal := stepWith exec s

/-- The instruction of a table word placed where the next step fetches. -/
def State.withFetchWord (s : State) (nbits w : Nat) : State := s.place (tableFrame nbits w)

end Sys2Proof.Machine
end

