-- ==== Sys2Proof/Safety.lean ====
section
/-! DEFINITION. The terms claims use: idle engine, valid DRAW, the INIT table as the spec writes it, the last transmitted mode
register value, and the invariant every step keeps. -/

namespace Sys2Proof.Machine

/-- The engine exists and no request is in progress: any request is accepted (spec 60_exceptions.md R211, R215). -/
abbrev Idle (s : State) : Prop := s.alive = true ∧ s.current = none

/-- The request constructors of the instruction type (R71). -/
def isRequest : Instr → Bool
  | .reset | .init | .draw _ _ _ _ _ | .setMirror _ _ | .setSwapAxes _ | .invertColor _ | .displayPower _ => true
  | .swreset | .slpout | .invoff | .invon | .dispoff | .dispon | .caset _ _ | .raset _ _ | .ramwr | .madctl _ | .pixfmt => false
  | .vendorB0 _ | .vendorB1 _ | .vendorB4 _ | .vendorB6 _ | .vendorB7 _ => false
  | .vendorC0 _ | .vendorC1 _ | .vendorC5 _ | .vendorE0 _ | .vendorE1 _ | .payload _ => false

/-- The valid domain of DRAW (R152): non-empty, every transmitted coordinate fits 16 bits, exactly W * H pixels. -/
structure DrawValid (c : Configuration) (xs ys xe ye : Half) (px : List Half) : Prop where
  columns : xs.toNat < xe.toNat
  rows : ys.toNat < ye.toNat
  columnFits : xe.toNat + c.xGap.toNat ≤ 65536
  rowFits : ye.toNat + c.yGap.toNat ≤ 65536
  pixels : px.length = (xe.toNat - xs.toNat) * (ye.toNat - ys.toNat)

/-- The INIT sequence as R116 tabulates it: each transaction with the delay that follows it, if any. -/
def initTable (c : Configuration) (m : Byte) : List (Txn × Option Nat) :=
  [(⟨.param, some 0x01#8, []⟩, some 120), (⟨.param, some 0x11#8, []⟩, some 20)] ++
    c.vendorTable.map (fun e => (⟨.param, some (vendorByte e.cmd), e.bytes⟩, none)) ++
    [(⟨.param, some 0x3A#8, [0x66#8]⟩, none), (⟨.param, some 0x36#8, [m]⟩, none), (⟨.param, some 0x29#8, []⟩, some 20)]

/-- The events of table entries whose transactions are all answered OK (R116, R119). -/
def okEvents (entries : List (Txn × Option Nat)) : List Event :=
  entries.flatMap fun e => .tx e.1 .ok :: (e.2.toList.map .delay)

/-- The ten vendor opcodes (R88). -/
def vendorOpcodes : List Byte := [0xB0#8, 0xB1#8, 0xB4#8, 0xB6#8, 0xB7#8, 0xC0#8, 0xC1#8, 0xC5#8, 0xE0#8, 0xE1#8]

/-- Every opcode of the wire opcode map (R80). -/
def wireOpcodes : List Byte :=
  [0x01#8, 0x11#8, 0x20#8, 0x21#8, 0x28#8, 0x29#8, 0x2A#8, 0x2B#8, 0x2C#8, 0x36#8, 0x3A#8] ++ vendorOpcodes

/-- The request headers of the table of R72. -/
def requestHeaders : List Byte :=
  [0x00#8, 0x10#8, 0x20#8, 0x30#8, 0x31#8, 0x32#8, 0x33#8, 0x40#8, 0x41#8, 0x50#8, 0x51#8, 0x60#8, 0x61#8]

/-- The transactions of an event list, in order, with their answers. -/
def txnsOf (es : List Event) : List (Txn × Answer) :=
  es.filterMap fun e => match e with
    | .tx t a => some (t, a)
    | .rst _ | .delay _ => none

/-- The mode register value known to the transport after transaction `t` was answered OK: its data byte if `t` is a 0x36
transaction (R25, R84). -/
def modeAfterTxn (t : Txn) (m : Byte) : Byte :=
  match t.cmd, t.data with
  | some c, [v] => if c = 0x36#8 then v else m
  | _, _ => m

/-- The same after an output event. -/
def modeAfter (m : Byte) : Event → Byte
  | .tx t .ok => modeAfterTxn t m
  | .tx _ .fail | .rst _ | .delay _ => m

/-- The data byte of the most recent 0x36 transaction answered OK, or MADCTL_DEFAULT if there is none (R25). -/
def lastSentMode (s : State) : Byte := s.trace.foldl modeAfter s.cfg.madctlDefault

/-- A transaction that is a row of the opcode table (R80). -/
def Emittable (t : Txn) : Prop := ∃ i, decode (.txn t) = .ok i

/-- The remaining steps of an operation `k` are sound, where `sent` is the mode value last transmitted OK, `held` is MADCTL and
`buf` the scratch contents: wherever a transaction can end the operation the two mode values agree (R25, R134); MADCTL is only
written with the fixed bits kept (R24); only rows of the table are sent (R80); only DRAW converts, within the capacity (R32,
R50); and a payload reads only converted bytes (R172). -/
def Sound (c : Configuration) (k : OpKind) : (sent held : Byte) → (buf : Memory) → List Action → Prop
  | sent, held, _, [] => sent = held
  | sent, held, buf, .tx t :: r => sent = held ∧ Emittable t ∧ Sound c k (modeAfterTxn t sent) held buf r
  | sent, held, buf, .txScratch n :: r =>
    sent = held ∧
      (∃ px : List Half, px ≠ [] ∧ px.length = n ∧ n ≤ c.capPixels.toNat ∧
        ∀ a < 3 * n, readByte buf a = (convAll px)[a]?) ∧
      Sound c k sent held buf r
  | sent, held, buf, .rst _ :: r => Sound c k sent held buf r
  | sent, held, buf, .delay _ :: r => Sound c k sent held buf r
  | sent, held, buf, .convert px :: r =>
    k = .draw ∧ px.length ≤ c.capPixels.toNat ∧ Sound c k sent held (writeBytes buf 0 (convAll px)) r
  | sent, _, buf, .setMadctl m :: r => fixedBits m = fixedBits c.madctlDefault ∧ Sound c k sent m buf r

/-- The invariant of the machine. -/
structure Inv (s : State) : Prop where
  /-- CONV_BUF is in its canonical form. -/
  scratchCanonical : s.convBuf.wf
  /-- CONV_BUF holds nothing beyond its capacity (R31, R50). -/
  scratchInCapacity : ∀ cell ∈ s.convBuf, cell.1 < 3 * s.cfg.capPixels.toNat
  /-- Nothing is known of CONV_BUF except while a DRAW is in progress (R32, U7). -/
  scratchOnlyInDraw : s.convBuf ≠ [] → ∃ op, s.current = some op ∧ op.kind = .draw
  /-- Bits 4:0 of MADCTL are those of MADCTL_DEFAULT (R24). -/
  modeFixedBits : fixedBits s.madctl = fixedBits s.cfg.madctlDefault
  /-- Between requests MADCTL is the value last transmitted OK (R25). -/
  modeSynchronised : s.current = none → lastSentMode s = s.madctl
  /-- An operation in progress is at a phase from 1 on and has sound steps left (R27). -/
  inProgress : ∀ op, s.current = some op →
    1 ≤ op.phase ∧ Sound s.cfg op.kind (lastSentMode s) s.madctl s.convBuf (.tx op.tx :: op.rest)

end Sys2Proof.Machine
end

