-- ==== Sys2Proof/Certificates/Slice0/Obligations.lean ====
section
/-! DEFINITION. The statements for the provers, each from a numbered rule of the spec. -/

open Sys2Proof Sys2Proof.Machine

/-! ## Encoding -/

/-- Decoding the encoding of a well-formed instruction gives it back, for every row of the table and every operand value its
encoding admits (30_encoding.md R72, R76, R80, R90). -/
def Obligations.RoundTripOfEveryInstruction : Prop :=
  ∀ i : Instr, i.wellFormed = true → decode (encode i) = .ok i

/-- A frame that decodes is the encoding of what it decodes to: no bit is ignored and no two frames share a meaning
(30_encoding.md R72, R74, R78). -/
def Obligations.DecodedFramesReencode : Prop :=
  ∀ (f : Frame) (i : Instr), decode f = .ok i → encode i = f

/-- A few frames written out from the tables of R72 and R80 and what they stand for. -/
def Obligations.FramesOfTheSpecDecode : Prop :=
  decode (.req ⟨0x00#8, []⟩) = .ok .reset ∧
  decode (.req ⟨0x10#8, []⟩) = .ok .init ∧
  decode (.req ⟨0x20#8, [0x000A#16, 0x0014#16, 0x000C#16, 0x0015#16, 0xF800#16, 0x07E0#16]⟩) =
    .ok (.draw 10#16 20#16 12#16 21#16 [0xF800#16, 0x07E0#16]) ∧
  decode (.req ⟨0x31#8, []⟩) = .ok (.setMirror true false) ∧
  decode (.req ⟨0x32#8, []⟩) = .ok (.setMirror false true) ∧
  decode (.req ⟨0x41#8, []⟩) = .ok (.setSwapAxes true) ∧
  decode (.req ⟨0x51#8, []⟩) = .ok (.invertColor true) ∧
  decode (.req ⟨0x60#8, []⟩) = .ok (.displayPower false) ∧
  decode (.txn ⟨.param, some 0x36#8, [0x48#8]⟩) = .ok (.madctl 0x48#8) ∧
  decode (.txn ⟨.color, some 0x2A#8, [0x00#8, 0x01#8, 0x00#8, 0x23#8, 0x00#8, 0x01#8, 0x00#8, 0xDF#8]⟩) =
    .ok (.caset 0x0123#16 0x01DF#16) ∧
  decode (.txn ⟨.param, some 0xE0#8, [0x01#8, 0x02#8, 0x03#8]⟩) = .ok (.vendorE0 [0x01#8, 0x02#8, 0x03#8]) ∧
  decode (.txn ⟨.color, none, [0x10#8, 0x44#8, 0xA0#8]⟩) = .ok (.payload [0x10#8, 0x44#8, 0xA0#8])

/-- 30_encoding.md R74: a request whose header is not in the table of R72 is refused, whatever its operands. -/
def Obligations.ReservedHeadersAreRefused : Prop :=
  ∀ (s : State) (f : ReqFrame) (more : List CallerEvent),
    Idle s → s.caller = .request f :: more → f.header ∉ requestHeaders →
    step s = .refused (.reservedHeader f.header)

/-! ## Operands -/

/-- 42_blit.md R161: the conversion is the three shifts, loses nothing, leaves the low bits zero and sends white as F8 FC F8. -/
def Obligations.ConversionFollowsTheShifts : Prop :=
  (∀ p : Half, ∃ r g b : Byte,
    conv p = [r, g, b] ∧
    r = (((p >>> 11) &&& 0x1F#16) <<< 3).setWidth 8 ∧
    g = (((p >>> 5) &&& 0x3F#16) <<< 2).setWidth 8 ∧
    b = ((p &&& 0x1F#16) <<< 3).setWidth 8 ∧
    p = r.extractLsb' 3 5 ++ g.extractLsb' 2 6 ++ b.extractLsb' 3 5 ∧
    r &&& 0x07#8 = 0#8 ∧ g &&& 0x03#8 = 0#8 ∧ b &&& 0x07#8 = 0#8 ∧
    r ≤ 0xF8#8 ∧ g ≤ 0xFC#8 ∧ b ≤ 0xF8#8) ∧
  conv 0xFFFF#16 = [0xF8#8, 0xFC#8, 0xF8#8]

/-- 30_encoding.md R90: the eight bytes of a coordinate block, and that it determines its two coordinates. -/
def Obligations.CoordinateBlockLayout : Prop :=
  ∀ s e : Half,
    (coord8 s e).map BitVec.toNat =
      [0, s.toNat / 256, 0, s.toNat % 256, 0, e.toNat / 256, 0, e.toNat % 256] ∧
    ∀ s' e' : Half, coord8 s' e' = coord8 s e → s' = s ∧ e' = e

/-- 42_blit.md R160: pixel i stands in bytes 3i, 3i+1, 3i+2 of CONV_BUF as red, green, blue, and no other byte changes. -/
def Obligations.PixelsStandInInputOrder : Prop :=
  ∀ (s : State) (px : List Half),
    (∀ (i k : Nat) (p : Half), px[i]? = some p → k < 3 →
      readByte (s.convertPixels px).convBuf (3 * i + k) = (conv p)[k]?) ∧
    (∀ a, 3 * px.length ≤ a → readByte (s.convertPixels px).convBuf a = readByte s.convBuf a)

/-- 42_blit.md R156, R157: in the valid domain the transmitted coordinates are the sums themselves, start not above end. -/
def Obligations.WindowOfAValidDraw : Prop :=
  ∀ (c : Configuration) (xs ys xe ye : Half) (px : List Half), DrawValid c xs ys xe ye px →
    (windowFirst xs c.xGap).toNat = xs.toNat + c.xGap.toNat ∧
    (windowLast xe c.xGap).toNat = xe.toNat + c.xGap.toNat - 1 ∧
    (windowFirst xs c.xGap).toNat ≤ (windowLast xe c.xGap).toNat ∧
    (windowFirst ys c.yGap).toNat = ys.toNat + c.yGap.toNat ∧
    (windowLast ye c.yGap).toNat = ye.toNat + c.yGap.toNat - 1 ∧
    (windowFirst ys c.yGap).toNat ≤ (windowLast ye c.yGap).toNat

/-- 42_blit.md R159: the pixel count is the exact product, at least 1 and below 2^32 for a valid request. -/
def Obligations.PixelCountOfAValidDraw : Prop :=
  ∀ (c : Configuration) (xs ys xe ye : Half) (px : List Half), DrawValid c xs ys xe ye px →
    pixelCount xs ys xe ye = (xe.toNat - xs.toNat) * (ye.toNat - ys.toNat) ∧
    1 ≤ pixelCount xs ys xe ye ∧ pixelCount xs ys xe ye ≤ 65535 * 65535 ∧ pixelCount xs ys xe ye < 2 ^ 32

/-! ## RESET and INIT -/

/-- 40_init_sequencer.md R111: with a reset line, low, delay, high, delay, always OK, and nothing else changes. -/
def Obligations.ResetPulsesTheLine : Prop :=
  encode .reset = .req ⟨0x00#8, []⟩ ∧
  ∀ s : State, Idle s → s.cfg.hasRst = true →
    exec .reset s =
      .next { s with
        resetLine := .high
        trace := s.trace ++ [.rst .low, .delay s.cfg.resetDelayMs, .rst .high, .delay s.cfg.resetDelayMs]
        completions := s.completions ++ [.ok] }

/-- 40_init_sequencer.md R113: without a reset line, an empty trace and OK. -/
def Obligations.ResetWithoutALine : Prop :=
  ∀ s : State, Idle s → s.cfg.hasRst = false →
    exec .reset s = .next { s with completions := s.completions ++ [.ok] }

/-- 40_init_sequencer.md R112, 10_state.md R23: no RESET, with or without a line, changes MADCTL, CONV_BUF or the
configuration, or consumes an answer, and it always answers a next state. -/
def Obligations.ResetChangesNoEngineState : Prop :=
  ∀ s : State, Idle s → ∃ t, exec .reset s = .next t ∧ t.madctl = s.madctl ∧ t.convBuf = s.convBuf ∧ t.cfg = s.cfg ∧
    t.current = none ∧ t.answers = s.answers ∧ t.caller = s.caller ∧ txnsOf t.trace = txnsOf s.trace

/-- 40_init_sequencer.md R116: with every transaction answered OK, INIT emits its table with the three delays and completes OK;
at the first FAIL it emits what precedes, then the failed transaction, and completes TRANSPORT_FAILURE with that command and
phase. Nothing else changes but the ghost flag of R37. -/
def Obligations.InitRunsItsTable : Prop :=
  encode .init = .req ⟨0x10#8, []⟩ ∧
  ∀ (s : State) (as : List Answer), Idle s →
    (s.answers = List.replicate (5 + s.cfg.vendorTable.length) .ok ++ as →
      (∃ ghost, exec .init s =
        .next { s with
          answers := as
          trace := s.trace ++ okEvents (initTable s.cfg s.madctl)
          completions := s.completions ++ [.ok]
          ctrlDefined := ghost }) ∧
      (txnsOf (okEvents (initTable s.cfg s.madctl))).length = 5 + s.cfg.vendorTable.length ∧
      (okEvents (initTable s.cfg s.madctl)).filter (fun e => e matches .delay _) = [.delay 120, .delay 20, .delay 20]) ∧
    (∀ (k : Nat) (u : Txn) (d : Option Nat), (initTable s.cfg s.madctl)[k]? = some (u, d) →
      s.answers = List.replicate k .ok ++ .fail :: as →
      ∃ ghost, exec .init s =
        .next { s with
          answers := as
          trace := s.trace ++ okEvents ((initTable s.cfg s.madctl).take k) ++ [.tx u .fail]
          completions := s.completions ++ [.transportFailure u.cmd (k + 1)]
          ctrlDefined := ghost })

/-- INIT with fewer answers than transactions: after k answers OK it is in progress at phase k + 1, the k-th transaction of the
table handed over, everything before it emitted (10_state.md R27, 20_memory.md R63, 43_transport_adapter.md R183). -/
def Obligations.InitWaitsForAnAnswer : Prop :=
  ∀ (s : State) (k : Nat) (u : Txn) (d : Option Nat), Idle s → s.answers = List.replicate k .ok →
    (initTable s.cfg s.madctl)[k]? = some (u, d) →
    ∃ rest, exec .init s =
      .next { s with
        answers := []
        trace := s.trace ++ okEvents ((initTable s.cfg s.madctl).take k)
        current := some ⟨.init, k + 1, u, rest⟩ }

/-- 40_init_sequencer.md R121: in every run of INIT the commands come in the fixed order, the vendor group between sleep-out and
pixel format, and nothing but the vendor table, MADCTL and the answers decides what is emitted. -/
def Obligations.InitOrderWhateverTheEnvironment : Prop :=
  (∀ (s t : State), Idle s → exec .init s = .next t →
    ∃ es, t.trace = s.trace ++ es ∧
      (txnsOf es).map (fun e => e.1.cmd) <+:
        [some 0x01#8, some 0x11#8] ++ s.cfg.vendorTable.map (fun e => some (vendorByte e.cmd)) ++
          [some 0x3A#8, some 0x36#8, some 0x29#8] ∧
      ∀ e ∈ s.cfg.vendorTable, vendorByte e.cmd ∈ vendorOpcodes) ∧
  (∀ (s s' : State), Idle s → Idle s' → s.cfg.vendorTable = s'.cfg.vendorTable → s.madctl = s'.madctl →
    s.answers = s'.answers →
    ∃ t t' es, exec .init s = .next t ∧ exec .init s' = .next t' ∧ t.trace = s.trace ++ es ∧ t'.trace = s'.trace ++ es)

/-! ## DRAW -/

/-- 42_blit.md R158, R162, R163: a valid DRAW within the capacity whose four transactions are answered OK emits exactly them, in
order, with no delay and no reset-line event, and completes OK. Nothing else changes but CONV_BUF (R32) and the ghost state of
R37. -/
def Obligations.ValidDrawSendsFourTransactions : Prop :=
  ∀ (s : State) (as : List Answer) (xs ys xe ye cs ce rs re : Half) (px : List Half),
    Idle s → DrawValid s.cfg xs ys xe ye px → px.length ≤ s.cfg.capPixels.toNat →
    cs.toNat = xs.toNat + s.cfg.xGap.toNat → ce.toNat + 1 = xe.toNat + s.cfg.xGap.toNat →
    rs.toNat = ys.toNat + s.cfg.yGap.toNat → re.toNat + 1 = ye.toNat + s.cfg.yGap.toNat →
    s.answers = .ok :: .ok :: .ok :: .ok :: as →
    (∃ buf ghost columns rows, exec (.draw xs ys xe ye px) s =
      .next { s with
        answers := as
        trace := s.trace ++
          [.tx ⟨.color, some 0x2A#8, coord8 cs ce⟩ .ok, .tx ⟨.color, some 0x2B#8, coord8 rs re⟩ .ok,
           .tx ⟨.param, some 0x2C#8, []⟩ .ok, .tx ⟨.color, none, px.flatMap conv⟩ .ok]
        completions := s.completions ++ [.ok]
        convBuf := buf
        ctrlDefined := ghost
        ctrlColumns := columns
        ctrlRows := rows }) ∧
    (coord8 cs ce).length = 8 ∧ (coord8 rs re).length = 8 ∧
    (px.flatMap conv).length = 3 * ((xe.toNat - xs.toNat) * (ye.toNat - ys.toNat))

/-- 42_blit.md R164: a valid DRAW within the capacity stops at its first FAIL, whichever of the four transactions it is, with
that transaction's command and phase; nothing else changes but CONV_BUF and the ghost state, where `ctrl_defined` is false. Its
possible traces, once it has ended, are the four with a FAIL and the one without. -/
def Obligations.DrawStopsAtTheFirstFailure : Prop :=
  ∀ (s : State) (xs ys xe ye cs ce rs re : Half) (px : List Half),
    Idle s → DrawValid s.cfg xs ys xe ye px → px.length ≤ s.cfg.capPixels.toNat →
    cs.toNat = xs.toNat + s.cfg.xGap.toNat → ce.toNat + 1 = xe.toNat + s.cfg.xGap.toNat →
    rs.toNat = ys.toNat + s.cfg.yGap.toNat → re.toNat + 1 = ye.toNat + s.cfg.yGap.toNat →
    ∀ ts : List Txn,
      ts = [⟨.color, some 0x2A#8, coord8 cs ce⟩, ⟨.color, some 0x2B#8, coord8 rs re⟩, ⟨.param, some 0x2C#8, []⟩,
        ⟨.color, none, px.flatMap conv⟩] →
      (∀ (k : Nat) (u : Txn) (as : List Answer), ts[k]? = some u → s.answers = List.replicate k .ok ++ .fail :: as →
        ∃ buf columns rows, exec (.draw xs ys xe ye px) s =
          .next { s with
            answers := as
            trace := s.trace ++ (ts.take k).map (fun x => .tx x .ok) ++ [.tx u .fail]
            completions := s.completions ++ [.transportFailure u.cmd (k + 1)]
            convBuf := buf
            ctrlDefined := false
            ctrlColumns := columns
            ctrlRows := rows }) ∧
      (∀ t, exec (.draw xs ys xe ye px) s = .next t → t.current = none →
        t.trace = s.trace ++ ts.map (fun x => .tx x .ok) ∨
        ∃ k u, ts[k]? = some u ∧ t.trace = s.trace ++ (ts.take k).map (fun x => .tx x .ok) ++ [.tx u .fail])

/-- A valid DRAW within the capacity with k < 4 answers, all OK, is in progress at phase k + 1 with its k-th transaction handed
over (10_state.md R27, 20_memory.md R63, 43_transport_adapter.md R183). -/
def Obligations.DrawWaitsForAnAnswer : Prop :=
  ∀ (s : State) (xs ys xe ye cs ce rs re : Half) (px : List Half) (ts : List Txn) (k : Nat) (u : Txn),
    Idle s → DrawValid s.cfg xs ys xe ye px → px.length ≤ s.cfg.capPixels.toNat →
    cs.toNat = xs.toNat + s.cfg.xGap.toNat → ce.toNat + 1 = xe.toNat + s.cfg.xGap.toNat →
    rs.toNat = ys.toNat + s.cfg.yGap.toNat → re.toNat + 1 = ye.toNat + s.cfg.yGap.toNat →
    ts = [⟨.color, some 0x2A#8, coord8 cs ce⟩, ⟨.color, some 0x2B#8, coord8 rs re⟩, ⟨.param, some 0x2C#8, []⟩,
      ⟨.color, none, px.flatMap conv⟩] →
    ts[k]? = some u → s.answers = List.replicate k .ok →
    ∃ t rest, exec (.draw xs ys xe ye px) s = .next t ∧ t.current = some ⟨.draw, k + 1, u, rest⟩ ∧
      t.trace = s.trace ++ (ts.take k).map (fun x => .tx x .ok) ∧ t.answers = [] ∧
      t.completions = s.completions ∧ t.madctl = s.madctl ∧ t.cfg = s.cfg ∧ t.resetLine = s.resetLine

/-- 42_blit.md R154: a valid DRAW of more pixels than the capacity completes SIZE_LIMIT_EXCEEDED with an empty trace and no
change of state, whatever the transport would answer; exactly the capacity passes. -/
def Obligations.OverCapacityDrawIsTurnedAway : Prop :=
  ∀ (s : State) (xs ys xe ye : Half) (px : List Half), Idle s → DrawValid s.cfg xs ys xe ye px →
    (s.cfg.capPixels.toNat < (xe.toNat - xs.toNat) * (ye.toNat - ys.toNat) →
      exec (.draw xs ys xe ye px) s = .next { s with completions := s.completions ++ [.sizeLimitExceeded] }) ∧
    ((xe.toNat - xs.toNat) * (ye.toNat - ys.toNat) = s.cfg.capPixels.toNat → ∀ as,
      s.answers = .ok :: .ok :: .ok :: .ok :: as →
      ∃ t, exec (.draw xs ys xe ye px) s = .next t ∧ t.completions = s.completions ++ [.ok])

/-- 42_blit.md R153: a DRAW outside the valid domain is refused: it has no next state, so no trace and no completion. -/
def Obligations.InvalidDrawIsRefused : Prop :=
  ∀ (s : State) (xs ys xe ye : Half) (px : List Half), Idle s → ¬DrawValid s.cfg xs ys xe ye px →
    ∃ r, exec (.draw xs ys xe ye px) s = .refused r

/-- Which refusal an invalid DRAW gets: the first condition of R152 it breaks. The names and their order are the model's own
(notes/assumptions/11.md). -/
def Obligations.InvalidDrawNamesItsCondition : Prop :=
  ∀ (s : State) (xs ys xe ye : Half) (px : List Half), Idle s →
    (¬(xs.toNat < xe.toNat ∧ ys.toNat < ye.toNat) →
      exec (.draw xs ys xe ye px) s = .refused .emptyRectangle) ∧
    (xs.toNat < xe.toNat ∧ ys.toNat < ye.toNat →
      (65536 < xe.toNat + s.cfg.xGap.toNat ∨ 65536 < ye.toNat + s.cfg.yGap.toNat) →
      exec (.draw xs ys xe ye px) s = .refused .coordinateOverflow) ∧
    (xs.toNat < xe.toNat ∧ ys.toNat < ye.toNat →
      xe.toNat + s.cfg.xGap.toNat ≤ 65536 ∧ ye.toNat + s.cfg.yGap.toNat ≤ 65536 →
      px.length ≠ (xe.toNat - xs.toNat) * (ye.toNat - ys.toNat) →
      exec (.draw xs ys xe ye px) s = .refused .pixelCountMismatch)

/-- The ghost state and CONV_BUF at the end of a request (10_state.md R37, R32; the model's choices of notes/assumptions/5.md and
8.md): INIT sets the ghost flag on OK and clears it on a failure, DRAW clears it and forgets the window on a failure, no other
request touches either, and after a DRAW nothing is known of CONV_BUF. -/
def Obligations.GhostStateAtTheEndOfARequest : Prop :=
  ∀ (i : Instr) (s t : State) (c : Completion), isRequest i = true → Idle s → exec i s = .next t →
    t.completions = s.completions ++ [c] →
    (i = .init → t.ctrlDefined = decide (c = .ok) ∧ t.ctrlColumns = s.ctrlColumns ∧ t.ctrlRows = s.ctrlRows) ∧
    (∀ xs ys xe ye px, i = .draw xs ys xe ye px →
      (c = .ok → t.ctrlDefined = s.ctrlDefined ∧ t.convBuf = [] ∧
        t.ctrlColumns = some (windowFirst xs s.cfg.xGap, windowLast xe s.cfg.xGap) ∧
        t.ctrlRows = some (windowFirst ys s.cfg.yGap, windowLast ye s.cfg.yGap)) ∧
      (c = .sizeLimitExceeded → t.ctrlDefined = s.ctrlDefined ∧ t.ctrlColumns = s.ctrlColumns ∧ t.ctrlRows = s.ctrlRows) ∧
      (c ≠ .ok → c ≠ .sizeLimitExceeded →
        t.ctrlDefined = false ∧ t.convBuf = [] ∧ t.ctrlColumns = none ∧ t.ctrlRows = none)) ∧
    (i ≠ .init → (∀ xs ys xe ye px, i ≠ .draw xs ys xe ye px) →
      t.ctrlDefined = s.ctrlDefined ∧ t.ctrlColumns = s.ctrlColumns ∧ t.ctrlRows = s.ctrlRows ∧ t.convBuf = s.convBuf)

/-- 42_blit.md R166: what a DRAW emits, and how it ends, is decided by its operands, the gaps, the capacity and the answers, not
by MADCTL, the reset line, earlier requests or the old contents of CONV_BUF. -/
def Obligations.DrawIgnoresModeAndHistory : Prop :=
  ∀ (s s' t : State) (xs ys xe ye : Half) (px : List Half), Idle s → Idle s' →
    s.cfg.xGap = s'.cfg.xGap → s.cfg.yGap = s'.cfg.yGap → s.cfg.capPixels = s'.cfg.capPixels →
    s.answers = s'.answers →
    exec (.draw xs ys xe ye px) s = .next t →
    ∃ t' es cs, exec (.draw xs ys xe ye px) s' = .next t' ∧
      t.trace = s.trace ++ es ∧ t'.trace = s'.trace ++ es ∧
      t.completions = s.completions ++ cs ∧ t'.completions = s'.completions ++ cs ∧ t.current = t'.current

/-! ## Orientation and pass-through -/

/-- 41_orientation.md R131, R132, R133: SET_MIRROR sends the byte whose bit 7 is y, bit 6 is x and whose other bits are those of
MADCTL, changed or not; on OK MADCTL holds it, on FAIL the old value, and nothing else changes. -/
def Obligations.SetMirrorWritesItsTwoBits : Prop :=
  ∀ x y : Bool,
    encode (.setMirror x y) = .req ⟨BitVec.ofNat 8 (0x30 + 2 * y.toNat + x.toNat), []⟩ ∧
    ∀ (s : State) (as : List Answer) (new : Byte), Idle s →
      new.getLsbD 7 = y → new.getLsbD 6 = x → (∀ i < 6, new.getLsbD i = s.madctl.getLsbD i) →
      (s.answers = .ok :: as →
        exec (.setMirror x y) s =
          .next { s with
            madctl := new
            answers := as
            trace := s.trace ++ [.tx ⟨.param, some 0x36#8, [new]⟩ .ok]
            completions := s.completions ++ [.ok] }) ∧
      (s.answers = .fail :: as →
        exec (.setMirror x y) s =
          .next { s with
            answers := as
            trace := s.trace ++ [.tx ⟨.param, some 0x36#8, [new]⟩ .fail]
            completions := s.completions ++ [.transportFailure (some 0x36#8) 1] })

/-- 41_orientation.md R136: SET_SWAP_AXES sends the byte whose bit 5 is the operand and whose other bits are those of MADCTL; on
OK MADCTL holds it, on FAIL the old value, and nothing else changes. -/
def Obligations.SetSwapAxesWritesItsBit : Prop :=
  ∀ sw : Bool,
    encode (.setSwapAxes sw) = .req ⟨BitVec.ofNat 8 (0x40 + sw.toNat), []⟩ ∧
    ∀ (s : State) (as : List Answer) (new : Byte), Idle s →
      new.getLsbD 5 = sw → (∀ i < 8, i ≠ 5 → new.getLsbD i = s.madctl.getLsbD i) →
      (s.answers = .ok :: as →
        exec (.setSwapAxes sw) s =
          .next { s with
            madctl := new
            answers := as
            trace := s.trace ++ [.tx ⟨.param, some 0x36#8, [new]⟩ .ok]
            completions := s.completions ++ [.ok] }) ∧
      (s.answers = .fail :: as →
        exec (.setSwapAxes sw) s =
          .next { s with
            answers := as
            trace := s.trace ++ [.tx ⟨.param, some 0x36#8, [new]⟩ .fail]
            completions := s.completions ++ [.transportFailure (some 0x36#8) 1] })

/-- 41_orientation.md R134: after a SET_MIRROR or SET_SWAP_AXES that completes with TRANSPORT_FAILURE, MADCTL holds exactly the
value it had before the request. -/
def Obligations.FailedModeTransmissionRollsBack : Prop :=
  ∀ (i : Instr) (s t : State) (cmd : Option Byte) (phase : Nat),
    ((∃ x y, i = .setMirror x y) ∨ ∃ sw, i = .setSwapAxes sw) → Idle s →
    exec i s = .next t → t.current = none →
    t.completions = s.completions ++ [.transportFailure cmd phase] →
    t.madctl = s.madctl

/-- 41_orientation.md R138: SET_MIRROR and SET_SWAP_AXES, both answered OK, leave the same MADCTL in either order: the three
operands and the fixed bits of MADCTL_DEFAULT. -/
def Obligations.OrientationRequestsCommute : Prop :=
  ∀ (s : State) (x y sw : Bool) (as : List Answer), Idle s → s.answers = .ok :: .ok :: as →
    fixedBits s.madctl = fixedBits s.cfg.madctlDefault →
    ∃ a b a' b', exec (.setMirror x y) s = .next a ∧ exec (.setSwapAxes sw) a = .next b ∧
      exec (.setSwapAxes sw) s = .next a' ∧ exec (.setMirror x y) a' = .next b' ∧
      b.madctl = b'.madctl ∧
      mirrorY b.madctl = y ∧ mirrorX b.madctl = x ∧ swapAxes b.madctl = sw ∧
      fixedBits b.madctl = fixedBits s.cfg.madctlDefault

/-- 41_orientation.md R140: INVERT_COLOR sends 0x21 for on and 0x20 for off and writes no state. -/
def Obligations.InvertColorPassesThrough : Prop :=
  ∀ (v : Bool) (c : Byte), c = (if v then 0x21#8 else 0x20#8) →
    encode (.invertColor v) = .req ⟨BitVec.ofNat 8 (0x50 + v.toNat), []⟩ ∧
    ∀ (s : State) (as : List Answer), Idle s →
      (s.answers = .ok :: as →
        exec (.invertColor v) s =
          .next { s with
            answers := as
            trace := s.trace ++ [.tx ⟨.param, some c, []⟩ .ok]
            completions := s.completions ++ [.ok] }) ∧
      (s.answers = .fail :: as →
        exec (.invertColor v) s =
          .next { s with
            answers := as
            trace := s.trace ++ [.tx ⟨.param, some c, []⟩ .fail]
            completions := s.completions ++ [.transportFailure (some c) 1] })

/-- 41_orientation.md R143: DISPLAY_POWER sends 0x29 for on and 0x28 for off, with no delay, and writes no state. -/
def Obligations.DisplayPowerPassesThrough : Prop :=
  ∀ (p : Bool) (c : Byte), c = (if p then 0x29#8 else 0x28#8) →
    encode (.displayPower p) = .req ⟨BitVec.ofNat 8 (0x60 + p.toNat), []⟩ ∧
    ∀ (s : State) (as : List Answer), Idle s →
      (s.answers = .ok :: as →
        exec (.displayPower p) s =
          .next { s with
            answers := as
            trace := s.trace ++ [.tx ⟨.param, some c, []⟩ .ok]
            completions := s.completions ++ [.ok] }) ∧
      (s.answers = .fail :: as →
        exec (.displayPower p) s =
          .next { s with
            answers := as
            trace := s.trace ++ [.tx ⟨.param, some c, []⟩ .fail]
            completions := s.completions ++ [.transportFailure (some c) 1] })

/-- The four requests of one transaction, with no answer yet, are in progress at phase 1 with that transaction handed over; in
particular MADCTL still holds the old value (10_state.md R27, 43_transport_adapter.md R183; the model writes MADCTL on OK, the
form R134 allows). -/
def Obligations.OneTransactionRequestsWait : Prop :=
  ∀ (s : State), Idle s → s.answers = [] →
    (∀ x y, ∃ rest, exec (.setMirror x y) s =
      .next { s with current := some ⟨.setMirror, 1, ⟨.param, some 0x36#8, [withMirror s.madctl x y]⟩, rest⟩ }) ∧
    (∀ sw, ∃ rest, exec (.setSwapAxes sw) s =
      .next { s with current := some ⟨.setSwapAxes, 1, ⟨.param, some 0x36#8, [withSwap s.madctl sw]⟩, rest⟩ }) ∧
    (∀ v, exec (.invertColor v) s =
      .next { s with current := some ⟨.invertColor, 1, ⟨.param, some (if v then 0x21#8 else 0x20#8), []⟩, []⟩ }) ∧
    (∀ p, exec (.displayPower p) s =
      .next { s with current := some ⟨.displayPower, 1, ⟨.param, some (if p then 0x29#8 else 0x28#8), []⟩, []⟩ })

/-! ## Wire rows -/

/-- 30_encoding.md R80 to R89, 43_transport_adapter.md R181, R182: each wire row on its own sends exactly its transaction, of the
kind, command byte and data of the map, whatever the answer, and changes nothing else (0x2A and 0x2B answered OK also set the
ghost window of R37). -/
def Obligations.WireRowsSendTheirTransaction : Prop :=
  ∀ (s : State) (a : Answer) (as : List Answer) (sent : Txn → State), Idle s → s.answers = a :: as →
    (∀ u, sent u = { s with answers := as, trace := s.trace ++ [.tx u a] }) →
    exec .swreset s = .next (sent ⟨.param, some 0x01#8, []⟩) ∧
    exec .slpout s = .next (sent ⟨.param, some 0x11#8, []⟩) ∧
    exec .invoff s = .next (sent ⟨.param, some 0x20#8, []⟩) ∧
    exec .invon s = .next (sent ⟨.param, some 0x21#8, []⟩) ∧
    exec .dispoff s = .next (sent ⟨.param, some 0x28#8, []⟩) ∧
    exec .dispon s = .next (sent ⟨.param, some 0x29#8, []⟩) ∧
    exec .ramwr s = .next (sent ⟨.param, some 0x2C#8, []⟩) ∧
    exec .pixfmt s = .next (sent ⟨.param, some 0x3A#8, [0x66#8]⟩) ∧
    (∀ m, exec (.madctl m) s = .next (sent ⟨.param, some 0x36#8, [m]⟩)) ∧
    (∀ d, exec (.vendorB0 d) s = .next (sent ⟨.param, some 0xB0#8, d⟩)) ∧
    (∀ d, exec (.vendorB1 d) s = .next (sent ⟨.param, some 0xB1#8, d⟩)) ∧
    (∀ d, exec (.vendorB4 d) s = .next (sent ⟨.param, some 0xB4#8, d⟩)) ∧
    (∀ d, exec (.vendorB6 d) s = .next (sent ⟨.param, some 0xB6#8, d⟩)) ∧
    (∀ d, exec (.vendorB7 d) s = .next (sent ⟨.param, some 0xB7#8, d⟩)) ∧
    (∀ d, exec (.vendorC0 d) s = .next (sent ⟨.param, some 0xC0#8, d⟩)) ∧
    (∀ d, exec (.vendorC1 d) s = .next (sent ⟨.param, some 0xC1#8, d⟩)) ∧
    (∀ d, exec (.vendorC5 d) s = .next (sent ⟨.param, some 0xC5#8, d⟩)) ∧
    (∀ d, exec (.vendorE0 d) s = .next (sent ⟨.param, some 0xE0#8, d⟩)) ∧
    (∀ d, exec (.vendorE1 d) s = .next (sent ⟨.param, some 0xE1#8, d⟩)) ∧
    (∀ d, exec (.payload d) s = .next (sent ⟨.color, none, d⟩)) ∧
    (∀ p q, exec (.caset p q) s =
      .next { sent ⟨.color, some 0x2A#8, coord8 p q⟩ with
        ctrlColumns := if a = .ok then some (p, q) else s.ctrlColumns }) ∧
    (∀ p q, exec (.raset p q) s =
      .next { sent ⟨.color, some 0x2B#8, coord8 p q⟩ with
        ctrlRows := if a = .ok then some (p, q) else s.ctrlRows })

/-- 60_exceptions.md R207, R203: in an operation in progress, FAIL ends it: the failed transaction is the last event, the
completion carries its command and phase, and MADCTL, the configuration and the reset line are as before. -/
def Obligations.FailEndsTheOperationInProgress : Prop :=
  ∀ (i : Instr) (u : Txn) (s : State) (op : Operation) (as : List Answer),
    encode i = .txn u → s.alive = true → s.current = some op → op.kind ≠ .bare → s.answers = .fail :: as →
    ∃ t, exec i s = .next t ∧ t.trace = s.trace ++ [.tx u .fail] ∧
      t.completions = s.completions ++ [.transportFailure u.cmd op.phase] ∧ t.current = none ∧ t.answers = as ∧
      t.madctl = s.madctl ∧ t.cfg = s.cfg ∧ t.resetLine = s.resetLine ∧ t.alive = true ∧ t.caller = s.caller

/-- 10_state.md R27: in an operation in progress, OK advances the phase by exactly one: the next transaction is then the one
handed over, and with none left the operation completes OK. -/
def Obligations.OkAdvancesThePhaseByOne : Prop :=
  ∀ (i : Instr) (u : Txn) (s : State) (op : Operation),
    encode i = .txn u → s.alive = true → s.current = some op → s.answers = [.ok] →
    (∀ u' r, op.rest = .tx u' :: r →
      ∃ t, exec i s = .next t ∧ t.current = some ⟨op.kind, op.phase + 1, u', r⟩ ∧
        t.trace = s.trace ++ [.tx u .ok] ∧ t.completions = s.completions ∧ t.madctl = s.madctl) ∧
    (op.rest = [] → op.kind ≠ .bare →
      ∃ t, exec i s = .next t ∧ t.current = none ∧ t.trace = s.trace ++ [.tx u .ok] ∧
        t.completions = s.completions ++ [.ok] ∧ t.madctl = s.madctl)

/-- 43_transport_adapter.md R183, 70_reset_and_hazards.md R251 (U11): a transaction handed to a transport that never answers
leaves no next step, whichever row it is. -/
def Obligations.SilentTransportIsStuck : Prop :=
  ∀ (i : Instr) (u : Txn) (s : State) (op : Operation),
    s.alive = true → s.current = some op → s.answers = [] →
    (encode i = .txn u → exec i s = .fault .transportSilent) ∧
    (decode (.txn op.tx) = .ok i → step s = .fault .transportSilent)

/-! ## The step -/

/-- Between requests, a step decodes the request the caller asks and runs it on the state without that request (00_scope.md R19;
the caller's stream is the model's own, notes/assumptions/2.md). -/
def Obligations.StepRunsTheRequestAsked : Prop :=
  ∀ (s : State) (f : ReqFrame) (more : List CallerEvent) (i : Instr),
    s.current = none → s.caller = .request f :: more → decode (.req f) = .ok i →
    step s = exec i { s with caller := more }

/-- With an operation in progress, a step decodes its outstanding transaction and runs it; no other request starts (00_scope.md
R19, 20_memory.md R63). -/
def Obligations.StepRunsTheOutstandingTransaction : Prop :=
  ∀ (s : State) (op : Operation) (i : Instr),
    s.current = some op → decode (.txn op.tx) = .ok i → step s = exec i s

/-- A frame placed where the step fetches is the one the next step runs. -/
def Obligations.PlacedFrameRunsNext : Prop :=
  ∀ (s : State) (i : Instr),
    (∀ f, decode (.req f) = .ok i →
      step (s.place (.req f)) = exec i { s with current := none, alive := true }) ∧
    (∀ u, decode (.txn u) = .ok i → step (s.place (.txn u)) = exec i (s.place (.txn u)))

/-- 70_reset_and_hazards.md R234: teardown releases CONV_BUF, emits nothing, cannot fail, and nothing asked afterwards has a
meaning. -/
def Obligations.TeardownEndsTheEngine : Prop :=
  (∀ (s : State) (more : List CallerEvent), Idle s → s.caller = .teardown :: more →
    step s = .next { s with caller := more, alive := false, convBuf := [] }) ∧
  (∀ (s : State) (i : Instr), s.alive = false → exec i s = .refused .afterTeardown) ∧
  (∀ (s : State) (e : CallerEvent) (more : List CallerEvent), s.alive = false → s.current = none →
    s.caller = e :: more → step s = .refused .afterTeardown)

/-- 70_reset_and_hazards.md R245 (U8): no request is given a meaning while another is in progress, and an idle engine with
nothing asked stays as it is. -/
def Obligations.OneRequestAtATime : Prop :=
  (∀ (i : Instr) (s : State), isRequest i = true → s.alive = true → s.current ≠ none →
    exec i s = .refused .overlappingRequest) ∧
  (∀ s : State, Idle s → s.caller = [] → step s = .next s)

/-- 00_scope.md R19, 20_memory.md R63: whether the answers are there at once or come late makes no difference. If a request runs
out of answers and is carried on by the next step with `bs`, the result is that of the request with all the answers. The answer
stream and the operation held in State between the two are the model's own (notes/assumptions/1.md, notes/assumptions/4.md). -/
def Obligations.LateAnswersChangeNothing : Prop :=
  ∀ (i : Instr) (s t : State) (bs : List Answer),
    isRequest i = true → Idle s → exec i s = .next t → t.current ≠ none → bs ≠ [] →
    step { t with answers := bs } = exec i { s with answers := s.answers ++ bs }

/-! ## The whole machine -/

/-- Every step keeps the invariant: canonical and bounded scratch buffer, nothing known of it outside a DRAW, the fixed bits of
MADCTL, its agreement with the last transmitted value between requests, and sound remaining steps of the operation in
progress (10_state.md R24, R25, R27, R31, R32). -/
def Obligations.EveryStepKeepsTheInvariant : Prop :=
  ∀ s t : State, Inv s → step s = .next t → Inv t

/-- The state after hardware reset meets the invariant, and so does any constructed engine. -/
def Obligations.ResetMeetsTheInvariant : Prop :=
  Inv State.reset ∧ ∀ c : Configuration, Inv (State.built c)

/-- 10_state.md R25: between requests MADCTL equals the data byte of the most recent 0x36 transaction answered OK, or
MADCTL_DEFAULT if there is none: at hardware reset, and after every step from a state that meets the invariant. -/
def Obligations.ModeRegisterStaysSynchronised : Prop :=
  (∀ c, lastSentMode (State.built c) = (State.built c).madctl) ∧
  ∀ s t : State, Inv s → step s = .next t → t.current = none → lastSentMode t = t.madctl

/-- 10_state.md R24: bits 4:0 of MADCTL are those of MADCTL_DEFAULT at hardware reset and after every step. -/
def Obligations.FixedBitsAreNeverAltered : Prop :=
  (∀ c, fixedBits (State.built c).madctl = fixedBits c.madctlDefault) ∧
  ∀ s t : State, Inv s → step s = .next t → fixedBits t.madctl = fixedBits t.cfg.madctlDefault

/-- 10_state.md R34, R35: no instruction and no step writes the configuration. -/
def Obligations.ConfigurationNeverChanges : Prop :=
  (∀ (i : Instr) (s t : State), exec i s = .next t → t.cfg = s.cfg) ∧
  ∀ s t : State, step s = .next t → t.cfg = s.cfg

/-- 10_state.md R23: only SET_MIRROR and SET_SWAP_AXES write MADCTL, the first only bits 7:6, the second only bit 5. -/
def Obligations.OnlyOrientationRequestsWriteMadctl : Prop :=
  ∀ (i : Instr) (s t : State), Idle s → exec i s = .next t →
    ((∀ x y, i ≠ .setMirror x y) → (∀ sw, i ≠ .setSwapAxes sw) → t.madctl = s.madctl) ∧
    (∀ x y, i = .setMirror x y → t.madctl.extractLsb' 0 6 = s.madctl.extractLsb' 0 6) ∧
    (∀ sw, i = .setSwapAxes sw → fixedBits t.madctl = fixedBits s.madctl ∧ mirrorX t.madctl = mirrorX s.madctl ∧
      mirrorY t.madctl = mirrorY s.madctl)

/-- 60_exceptions.md R208: a request that completes with an error leaves MADCTL exactly as it found it, and the configuration. -/
def Obligations.ErrorsLeaveMadctlAlone : Prop :=
  ∀ (i : Instr) (s t : State) (c : Completion), isRequest i = true → Idle s → exec i s = .next t →
    t.completions = s.completions ++ [c] → c ≠ .ok → t.madctl = s.madctl ∧ t.cfg = s.cfg

/-- 60_exceptions.md R207, R221: events already emitted stay emitted, and a step adds at most one completion. -/
def Obligations.TraceOnlyGrows : Prop :=
  ∀ s t : State, step s = .next t →
    (∃ es, t.trace = s.trace ++ es) ∧ (t.completions = s.completions ∨ ∃ c, t.completions = s.completions ++ [c])

/-- 60_exceptions.md R207: within a request nothing follows a transaction answered FAIL, what was emitted stays emitted, the
completion carries its command and its 1-based index among the request's transactions, MADCTL and the configuration are as
before (R208), and the engine is ready for the next request. -/
def Obligations.NothingFollowsAFailedTransaction : Prop :=
  ∀ (i : Instr) (s t : State) (pre post : List Event) (u : Txn),
    isRequest i = true → Idle s → exec i s = .next t → t.trace = s.trace ++ pre ++ [.tx u .fail] ++ post →
    post = [] ∧ Idle t ∧ t.madctl = s.madctl ∧ t.cfg = s.cfg ∧
      t.completions = s.completions ++ [.transportFailure u.cmd ((txnsOf pre).length + 1)]

/-- 60_exceptions.md R221, R207: a request ends with exactly one completion, or it is still in progress, out of answers, with
none. -/
def Obligations.OneCompletionPerRequest : Prop :=
  ∀ (i : Instr) (s t : State), isRequest i = true → Idle s → exec i s = .next t →
    (t.current = none ∧ ∃ c, t.completions = s.completions ++ [c]) ∨
    ((∃ op, t.current = some op) ∧ t.completions = s.completions ∧ t.answers = [])

/-- 43_transport_adapter.md R183, 00_scope.md R11: every transaction of a request consumes exactly one answer, the next one, and
carries it in the trace. -/
def Obligations.OneAnswerPerTransaction : Prop :=
  ∀ (i : Instr) (s t : State), isRequest i = true → Idle s → exec i s = .next t →
    ∃ es, t.trace = s.trace ++ es ∧ s.answers = (txnsOf es).map Prod.snd ++ t.answers

/-- 60_exceptions.md R205, R203: which request can end in which completion: RESET only OK; every other OK or TRANSPORT_FAILURE at
a phase of its own; SIZE_LIMIT_EXCEEDED only DRAW; INVALID_ARGUMENT and OUT_OF_MEMORY none. A wire row on its own has no
completion (the model's own form, notes/assumptions/7.md). -/
def Obligations.CompletionsARequestCanHave : Prop :=
  ∀ (i : Instr) (s t : State), Idle s → exec i s = .next t →
    (isRequest i = false → t.completions = s.completions) ∧
    ∀ c, t.completions = s.completions ++ [c] →
      (i = .reset → c = .ok) ∧
      (i = .init → c = .ok ∨ ∃ cmd p, c = .transportFailure cmd p ∧ 1 ≤ p ∧ p ≤ 5 + s.cfg.vendorTable.length) ∧
      (∀ x y, i = .setMirror x y → c = .ok ∨ c = .transportFailure (some 0x36#8) 1) ∧
      (∀ sw, i = .setSwapAxes sw → c = .ok ∨ c = .transportFailure (some 0x36#8) 1) ∧
      (∀ v, i = .invertColor v → c = .ok ∨ c = .transportFailure (some (if v then 0x21#8 else 0x20#8)) 1) ∧
      (∀ p, i = .displayPower p → c = .ok ∨ c = .transportFailure (some (if p then 0x29#8 else 0x28#8)) 1) ∧
      (∀ xs ys xe ye px, i = .draw xs ys xe ye px →
        c = .ok ∨ c = .sizeLimitExceeded ∨ c = .transportFailure (some 0x2A#8) 1 ∨
          c = .transportFailure (some 0x2B#8) 2 ∨ c = .transportFailure (some 0x2C#8) 3 ∨ c = .transportFailure none 4)

/-- 30_encoding.md R80, R77: from a state that meets the invariant a step emits only commands of the wire opcode map, 0x2A, 0x2B
and the command-less payload as COLOR and every other as PARAM. -/
def Obligations.OnlyCommandsOfTheMapAreEmitted : Prop :=
  ∀ (s t : State) (es : List Event) (u : Txn) (a : Answer), Inv s → step s = .next t → t.trace = s.trace ++ es →
    .tx u a ∈ es →
    (u.cmd = none ∧ u.kind = .color) ∨
    ∃ b, u.cmd = some b ∧ b ∈ wireOpcodes ∧ (u.kind = .color ↔ b = 0x2A#8 ∨ b = 0x2B#8)

/-! ## Construction -/

/-- 70_reset_and_hazards.md R231, R232: without a transport construction fails with INVALID_ARGUMENT, whatever the allocation;
with one and a failed allocation with OUT_OF_MEMORY; in both cases no engine exists. -/
def Obligations.ConstructionFailures : Prop :=
  (∀ c a, construct c false a = .failed .invalidArgument) ∧
  (∀ c, construct c true false = .failed .outOfMemory) ∧
  (∀ c s, ¬construct c false true = .built s ∧ ¬construct c false false = .built s ∧ ¬construct c true false = .built s)

/-- 70_reset_and_hazards.md R230, R233: a successful construction sets the configuration, MADCTL to MADCTL_DEFAULT and no request
in progress, and emits nothing; `State.reset` is such an engine. -/
def Obligations.ConstructionBuildsTheResetState : Prop :=
  (∀ c, ∃ s, construct c true true = .built s ∧ s.cfg = c ∧ s.madctl = c.madctlDefault ∧ s.current = none ∧
    s.trace = [] ∧ s.completions = [] ∧ s.alive = true) ∧
  ∃ c, construct c true true = .built State.reset
end

