-- ==== Sys2Proof/Laws/Decode.lean ====
section
/-! SUPPORT. What the decoder and the encoder do: the opcode table is unambiguous, the operand blocks are read back. -/

namespace Sys2Proof

open Machine

/-- Each command is found by its own opcode byte: no two rows of R80 overlap. -/
@[simp] theorem commandOfByte_commandByte (c : Command) : commandOfByte (commandByte c) = some c := by
  cases c with
  | vendor v => cases v <;> rfl
  | _ => rfl

/-- A command found by a byte has that byte. -/
theorem commandByte_of_commandOfByte {b : Byte} {c : Command} (h : commandOfByte b = some c) : commandByte c = b := by
  simpa using List.find?_some h

/-- The two bytes of a 16-bit value, high byte first, are the value. -/
@[simp] theorem high_append_low (x : Half) : (x.extractLsb' 8 8 ++ x.extractLsb' 0 8 : Half) = x := by
  apply BitVec.eq_of_getLsbD_eq
  intro i hi
  rw [BitVec.getLsbD_append]
  by_cases h : i < 8
  · simp [h]
  · have h1 : i - 8 < 8 := by omega
    have h2 : 8 + (i - 8) = i := by omega
    simp [h, h1, h2]

/-- The high byte of two bytes. -/
@[simp] theorem high_of_append (a b : Byte) : (a ++ b : Half).extractLsb' 8 8 = a := by
  apply BitVec.eq_of_getLsbD_eq
  intro i hi
  rw [BitVec.getLsbD_extractLsb', BitVec.getLsbD_append]
  simp [hi]

/-- The low byte of two bytes. -/
@[simp] theorem low_of_append (a b : Byte) : (a ++ b : Half).extractLsb' 0 8 = b := by
  apply BitVec.eq_of_getLsbD_eq
  intro i hi
  rw [BitVec.getLsbD_extractLsb', BitVec.getLsbD_append]
  simp [hi]

/-- A coordinate block is read back (R90). -/
@[simp] theorem parseCoord8_coord8 (s e : Half) : parseCoord8 (coord8 s e) = some (s, e) := by
  simp only [parseCoord8, coord8, and_self, if_true]
  rw [high_append_low, high_append_low]

/-- A block that is read as two coordinates is their coordinate block (R90). -/
theorem coord8_of_parseCoord8 {d : List Byte} {w : Half × Half} (h : parseCoord8 d = some w) : coord8 w.1 w.2 = d := by
  unfold parseCoord8 at h
  split at h
  · rename_i p0 sh p1 sl p2 eh p3 el
    split at h
    · rename_i hp
      obtain ⟨rfl, rfl, rfl, rfl⟩ := hp
      injection h with h
      subst h
      simp only [coord8]
      rw [high_of_append, low_of_append, high_of_append, low_of_append]
    · cases h
  · cases h

/-- Decoding a command's transaction reads its row. -/
theorem decode_wireTxn (c : Command) (d : List Byte) :
    decode (.txn (wireTxn c d)) =
      match commandInstr c d with
      | some i => .ok i
      | none => .rejected (.wrongForm (wireTxn c d)) := by
  cases h : commandInstr c d <;> simp [decode, decodeTxn, decodeCommand, wireTxn, h]

end Sys2Proof
end

