-- ==== Sys2Proof/Laws/State.lean ====
section
/-! SUPPORT. One lemma per field per update of the state, so that no later proof unfolds a record update. -/

namespace Sys2Proof.Machine

/-! ## emit -/

@[simp] theorem emit_cfg (s : State) (e : Event) : (s.emit e).cfg = s.cfg := rfl
@[simp] theorem emit_madctl (s : State) (e : Event) : (s.emit e).madctl = s.madctl := rfl
@[simp] theorem emit_convBuf (s : State) (e : Event) : (s.emit e).convBuf = s.convBuf := rfl
@[simp] theorem emit_resetLine (s : State) (e : Event) : (s.emit e).resetLine = s.resetLine := rfl
@[simp] theorem emit_current (s : State) (e : Event) : (s.emit e).current = s.current := rfl
@[simp] theorem emit_alive (s : State) (e : Event) : (s.emit e).alive = s.alive := rfl
@[simp] theorem emit_trace (s : State) (e : Event) : (s.emit e).trace = s.trace ++ [e] := rfl
@[simp] theorem emit_completions (s : State) (e : Event) : (s.emit e).completions = s.completions := rfl
@[simp] theorem emit_caller (s : State) (e : Event) : (s.emit e).caller = s.caller := rfl
@[simp] theorem emit_answers (s : State) (e : Event) : (s.emit e).answers = s.answers := rfl
@[simp] theorem emit_ctrlDefined (s : State) (e : Event) : (s.emit e).ctrlDefined = s.ctrlDefined := rfl
@[simp] theorem emit_ctrlColumns (s : State) (e : Event) : (s.emit e).ctrlColumns = s.ctrlColumns := rfl
@[simp] theorem emit_ctrlRows (s : State) (e : Event) : (s.emit e).ctrlRows = s.ctrlRows := rfl

/-! ## driveReset -/

@[simp] theorem driveReset_cfg (s : State) (l : Level) : (s.driveReset l).cfg = s.cfg := rfl
@[simp] theorem driveReset_madctl (s : State) (l : Level) : (s.driveReset l).madctl = s.madctl := rfl
@[simp] theorem driveReset_convBuf (s : State) (l : Level) : (s.driveReset l).convBuf = s.convBuf := rfl
@[simp] theorem driveReset_resetLine (s : State) (l : Level) : (s.driveReset l).resetLine = l := rfl
@[simp] theorem driveReset_current (s : State) (l : Level) : (s.driveReset l).current = s.current := rfl
@[simp] theorem driveReset_alive (s : State) (l : Level) : (s.driveReset l).alive = s.alive := rfl
@[simp] theorem driveReset_trace (s : State) (l : Level) : (s.driveReset l).trace = s.trace ++ [.rst l] := rfl
@[simp] theorem driveReset_completions (s : State) (l : Level) : (s.driveReset l).completions = s.completions := rfl
@[simp] theorem driveReset_caller (s : State) (l : Level) : (s.driveReset l).caller = s.caller := rfl
@[simp] theorem driveReset_answers (s : State) (l : Level) : (s.driveReset l).answers = s.answers := rfl
@[simp] theorem driveReset_ctrlDefined (s : State) (l : Level) : (s.driveReset l).ctrlDefined = s.ctrlDefined := rfl
@[simp] theorem driveReset_ctrlColumns (s : State) (l : Level) : (s.driveReset l).ctrlColumns = s.ctrlColumns := rfl
@[simp] theorem driveReset_ctrlRows (s : State) (l : Level) : (s.driveReset l).ctrlRows = s.ctrlRows := rfl

/-! ## convertPixels -/

@[simp] theorem convertPixels_cfg (s : State) (px : List Half) : (s.convertPixels px).cfg = s.cfg := rfl
@[simp] theorem convertPixels_madctl (s : State) (px : List Half) : (s.convertPixels px).madctl = s.madctl := rfl
@[simp] theorem convertPixels_convBuf (s : State) (px : List Half) : (s.convertPixels px).convBuf = writeBytes s.convBuf 0 (convAll px) := rfl
@[simp] theorem convertPixels_resetLine (s : State) (px : List Half) : (s.convertPixels px).resetLine = s.resetLine := rfl
@[simp] theorem convertPixels_current (s : State) (px : List Half) : (s.convertPixels px).current = s.current := rfl
@[simp] theorem convertPixels_alive (s : State) (px : List Half) : (s.convertPixels px).alive = s.alive := rfl
@[simp] theorem convertPixels_trace (s : State) (px : List Half) : (s.convertPixels px).trace = s.trace := rfl
@[simp] theorem convertPixels_completions (s : State) (px : List Half) : (s.convertPixels px).completions = s.completions := rfl
@[simp] theorem convertPixels_caller (s : State) (px : List Half) : (s.convertPixels px).caller = s.caller := rfl
@[simp] theorem convertPixels_answers (s : State) (px : List Half) : (s.convertPixels px).answers = s.answers := rfl
@[simp] theorem convertPixels_ctrlDefined (s : State) (px : List Half) : (s.convertPixels px).ctrlDefined = s.ctrlDefined := rfl
@[simp] theorem convertPixels_ctrlColumns (s : State) (px : List Half) : (s.convertPixels px).ctrlColumns = s.ctrlColumns := rfl
@[simp] theorem convertPixels_ctrlRows (s : State) (px : List Half) : (s.convertPixels px).ctrlRows = s.ctrlRows := rfl

/-! ## failed -/

@[simp] theorem failed_cfg (s : State) (t : Txn) (as : List Answer) : (s.failed t as).cfg = s.cfg := rfl
@[simp] theorem failed_madctl (s : State) (t : Txn) (as : List Answer) : (s.failed t as).madctl = s.madctl := rfl
@[simp] theorem failed_convBuf (s : State) (t : Txn) (as : List Answer) : (s.failed t as).convBuf = s.convBuf := rfl
@[simp] theorem failed_resetLine (s : State) (t : Txn) (as : List Answer) : (s.failed t as).resetLine = s.resetLine := rfl
@[simp] theorem failed_current (s : State) (t : Txn) (as : List Answer) : (s.failed t as).current = s.current := rfl
@[simp] theorem failed_alive (s : State) (t : Txn) (as : List Answer) : (s.failed t as).alive = s.alive := rfl
@[simp] theorem failed_trace (s : State) (t : Txn) (as : List Answer) : (s.failed t as).trace = s.trace ++ [.tx t .fail] := rfl
@[simp] theorem failed_completions (s : State) (t : Txn) (as : List Answer) : (s.failed t as).completions = s.completions := rfl
@[simp] theorem failed_caller (s : State) (t : Txn) (as : List Answer) : (s.failed t as).caller = s.caller := rfl
@[simp] theorem failed_answers (s : State) (t : Txn) (as : List Answer) : (s.failed t as).answers = as := rfl
@[simp] theorem failed_ctrlDefined (s : State) (t : Txn) (as : List Answer) : (s.failed t as).ctrlDefined = s.ctrlDefined := rfl
@[simp] theorem failed_ctrlColumns (s : State) (t : Txn) (as : List Answer) : (s.failed t as).ctrlColumns = s.ctrlColumns := rfl
@[simp] theorem failed_ctrlRows (s : State) (t : Txn) (as : List Answer) : (s.failed t as).ctrlRows = s.ctrlRows := rfl

/-! ## waitFor -/

@[simp] theorem waitFor_cfg (s : State) (k : OpKind) (p : Nat) (t : Txn) (r : List Action) : (s.waitFor k p t r).cfg = s.cfg := rfl
@[simp] theorem waitFor_madctl (s : State) (k : OpKind) (p : Nat) (t : Txn) (r : List Action) : (s.waitFor k p t r).madctl = s.madctl := rfl
@[simp] theorem waitFor_convBuf (s : State) (k : OpKind) (p : Nat) (t : Txn) (r : List Action) : (s.waitFor k p t r).convBuf = s.convBuf := rfl
@[simp] theorem waitFor_resetLine (s : State) (k : OpKind) (p : Nat) (t : Txn) (r : List Action) : (s.waitFor k p t r).resetLine = s.resetLine := rfl
@[simp] theorem waitFor_current (s : State) (k : OpKind) (p : Nat) (t : Txn) (r : List Action) : (s.waitFor k p t r).current = some ⟨k, p, t, r⟩ := rfl
@[simp] theorem waitFor_alive (s : State) (k : OpKind) (p : Nat) (t : Txn) (r : List Action) : (s.waitFor k p t r).alive = s.alive := rfl
@[simp] theorem waitFor_trace (s : State) (k : OpKind) (p : Nat) (t : Txn) (r : List Action) : (s.waitFor k p t r).trace = s.trace := rfl
@[simp] theorem waitFor_completions (s : State) (k : OpKind) (p : Nat) (t : Txn) (r : List Action) : (s.waitFor k p t r).completions = s.completions := rfl
@[simp] theorem waitFor_caller (s : State) (k : OpKind) (p : Nat) (t : Txn) (r : List Action) : (s.waitFor k p t r).caller = s.caller := rfl
@[simp] theorem waitFor_answers (s : State) (k : OpKind) (p : Nat) (t : Txn) (r : List Action) : (s.waitFor k p t r).answers = s.answers := rfl
@[simp] theorem waitFor_ctrlDefined (s : State) (k : OpKind) (p : Nat) (t : Txn) (r : List Action) : (s.waitFor k p t r).ctrlDefined = s.ctrlDefined := rfl
@[simp] theorem waitFor_ctrlColumns (s : State) (k : OpKind) (p : Nat) (t : Txn) (r : List Action) : (s.waitFor k p t r).ctrlColumns = s.ctrlColumns := rfl
@[simp] theorem waitFor_ctrlRows (s : State) (k : OpKind) (p : Nat) (t : Txn) (r : List Action) : (s.waitFor k p t r).ctrlRows = s.ctrlRows := rfl

/-! ## teardown -/

@[simp] theorem teardown_cfg (s : State) : (s.teardown).cfg = s.cfg := rfl
@[simp] theorem teardown_madctl (s : State) : (s.teardown).madctl = s.madctl := rfl
@[simp] theorem teardown_convBuf (s : State) : (s.teardown).convBuf = [] := rfl
@[simp] theorem teardown_resetLine (s : State) : (s.teardown).resetLine = s.resetLine := rfl
@[simp] theorem teardown_current (s : State) : (s.teardown).current = s.current := rfl
@[simp] theorem teardown_alive (s : State) : (s.teardown).alive = false := rfl
@[simp] theorem teardown_trace (s : State) : (s.teardown).trace = s.trace := rfl
@[simp] theorem teardown_completions (s : State) : (s.teardown).completions = s.completions := rfl
@[simp] theorem teardown_caller (s : State) : (s.teardown).caller = s.caller := rfl
@[simp] theorem teardown_answers (s : State) : (s.teardown).answers = s.answers := rfl
@[simp] theorem teardown_ctrlDefined (s : State) : (s.teardown).ctrlDefined = s.ctrlDefined := rfl
@[simp] theorem teardown_ctrlColumns (s : State) : (s.teardown).ctrlColumns = s.ctrlColumns := rfl
@[simp] theorem teardown_ctrlRows (s : State) : (s.teardown).ctrlRows = s.ctrlRows := rfl

/-! ## noteWindow (only the ghost window can change) -/

@[simp] theorem noteWindow_cfg (s : State) (t : Txn) : (s.noteWindow t).cfg = s.cfg := by
  unfold State.noteWindow; split <;> [rfl; (split <;> rfl)]
@[simp] theorem noteWindow_madctl (s : State) (t : Txn) : (s.noteWindow t).madctl = s.madctl := by
  unfold State.noteWindow; split <;> [rfl; (split <;> rfl)]
@[simp] theorem noteWindow_convBuf (s : State) (t : Txn) : (s.noteWindow t).convBuf = s.convBuf := by
  unfold State.noteWindow; split <;> [rfl; (split <;> rfl)]
@[simp] theorem noteWindow_resetLine (s : State) (t : Txn) : (s.noteWindow t).resetLine = s.resetLine := by
  unfold State.noteWindow; split <;> [rfl; (split <;> rfl)]
@[simp] theorem noteWindow_current (s : State) (t : Txn) : (s.noteWindow t).current = s.current := by
  unfold State.noteWindow; split <;> [rfl; (split <;> rfl)]
@[simp] theorem noteWindow_alive (s : State) (t : Txn) : (s.noteWindow t).alive = s.alive := by
  unfold State.noteWindow; split <;> [rfl; (split <;> rfl)]
@[simp] theorem noteWindow_trace (s : State) (t : Txn) : (s.noteWindow t).trace = s.trace := by
  unfold State.noteWindow; split <;> [rfl; (split <;> rfl)]
@[simp] theorem noteWindow_completions (s : State) (t : Txn) : (s.noteWindow t).completions = s.completions := by
  unfold State.noteWindow; split <;> [rfl; (split <;> rfl)]
@[simp] theorem noteWindow_caller (s : State) (t : Txn) : (s.noteWindow t).caller = s.caller := by
  unfold State.noteWindow; split <;> [rfl; (split <;> rfl)]
@[simp] theorem noteWindow_answers (s : State) (t : Txn) : (s.noteWindow t).answers = s.answers := by
  unfold State.noteWindow; split <;> [rfl; (split <;> rfl)]
@[simp] theorem noteWindow_ctrlDefined (s : State) (t : Txn) : (s.noteWindow t).ctrlDefined = s.ctrlDefined := by
  unfold State.noteWindow; split <;> [rfl; (split <;> rfl)]

/-! ## accepted -/

@[simp] theorem accepted_cfg (s : State) (t : Txn) (as : List Answer) : (s.accepted t as).cfg = s.cfg := by
  simp [State.accepted]
@[simp] theorem accepted_madctl (s : State) (t : Txn) (as : List Answer) : (s.accepted t as).madctl = s.madctl := by
  simp [State.accepted]
@[simp] theorem accepted_convBuf (s : State) (t : Txn) (as : List Answer) : (s.accepted t as).convBuf = s.convBuf := by
  simp [State.accepted]
@[simp] theorem accepted_resetLine (s : State) (t : Txn) (as : List Answer) : (s.accepted t as).resetLine = s.resetLine := by
  simp [State.accepted]
@[simp] theorem accepted_current (s : State) (t : Txn) (as : List Answer) : (s.accepted t as).current = s.current := by
  simp [State.accepted]
@[simp] theorem accepted_alive (s : State) (t : Txn) (as : List Answer) : (s.accepted t as).alive = s.alive := by
  simp [State.accepted]
@[simp] theorem accepted_trace (s : State) (t : Txn) (as : List Answer) : (s.accepted t as).trace = s.trace ++ [.tx t .ok] := by
  simp [State.accepted]
@[simp] theorem accepted_completions (s : State) (t : Txn) (as : List Answer) : (s.accepted t as).completions = s.completions := by
  simp [State.accepted]
@[simp] theorem accepted_caller (s : State) (t : Txn) (as : List Answer) : (s.accepted t as).caller = s.caller := by
  simp [State.accepted]
@[simp] theorem accepted_answers (s : State) (t : Txn) (as : List Answer) : (s.accepted t as).answers = as := by
  simp [State.accepted]
@[simp] theorem accepted_ctrlDefined (s : State) (t : Txn) (as : List Answer) : (s.accepted t as).ctrlDefined = s.ctrlDefined := by
  simp [State.accepted]

/-! ## report -/

@[simp] theorem report_cfg (s : State) (k : OpKind) (c : Completion) : (s.report k c).cfg = s.cfg := by
  unfold State.report; split <;> rfl
@[simp] theorem report_madctl (s : State) (k : OpKind) (c : Completion) : (s.report k c).madctl = s.madctl := by
  unfold State.report; split <;> rfl
@[simp] theorem report_convBuf (s : State) (k : OpKind) (c : Completion) : (s.report k c).convBuf = s.convBuf := by
  unfold State.report; split <;> rfl
@[simp] theorem report_resetLine (s : State) (k : OpKind) (c : Completion) : (s.report k c).resetLine = s.resetLine := by
  unfold State.report; split <;> rfl
@[simp] theorem report_current (s : State) (k : OpKind) (c : Completion) : (s.report k c).current = s.current := by
  unfold State.report; split <;> rfl
@[simp] theorem report_alive (s : State) (k : OpKind) (c : Completion) : (s.report k c).alive = s.alive := by
  unfold State.report; split <;> rfl
@[simp] theorem report_trace (s : State) (k : OpKind) (c : Completion) : (s.report k c).trace = s.trace := by
  unfold State.report; split <;> rfl
@[simp] theorem report_completions (s : State) (k : OpKind) (c : Completion) : (s.report k c).completions = (if k = .bare then s.completions else s.completions ++ [c]) := by
  unfold State.report; split <;> rfl
@[simp] theorem report_caller (s : State) (k : OpKind) (c : Completion) : (s.report k c).caller = s.caller := by
  unfold State.report; split <;> rfl
@[simp] theorem report_answers (s : State) (k : OpKind) (c : Completion) : (s.report k c).answers = s.answers := by
  unfold State.report; split <;> rfl
@[simp] theorem report_ctrlDefined (s : State) (k : OpKind) (c : Completion) : (s.report k c).ctrlDefined = s.ctrlDefined := by
  unfold State.report; split <;> rfl
@[simp] theorem report_ctrlColumns (s : State) (k : OpKind) (c : Completion) : (s.report k c).ctrlColumns = s.ctrlColumns := by
  unfold State.report; split <;> rfl
@[simp] theorem report_ctrlRows (s : State) (k : OpKind) (c : Completion) : (s.report k c).ctrlRows = s.ctrlRows := by
  unfold State.report; split <;> rfl

/-! ## releaseScratch -/

@[simp] theorem releaseScratch_cfg (s : State) (k : OpKind) : (s.releaseScratch k).cfg = s.cfg := by
  unfold State.releaseScratch; split <;> rfl
@[simp] theorem releaseScratch_madctl (s : State) (k : OpKind) : (s.releaseScratch k).madctl = s.madctl := by
  unfold State.releaseScratch; split <;> rfl
@[simp] theorem releaseScratch_convBuf (s : State) (k : OpKind) : (s.releaseScratch k).convBuf = (if k = .draw then [] else s.convBuf) := by
  unfold State.releaseScratch; split <;> rfl
@[simp] theorem releaseScratch_resetLine (s : State) (k : OpKind) : (s.releaseScratch k).resetLine = s.resetLine := by
  unfold State.releaseScratch; split <;> rfl
@[simp] theorem releaseScratch_current (s : State) (k : OpKind) : (s.releaseScratch k).current = s.current := by
  unfold State.releaseScratch; split <;> rfl
@[simp] theorem releaseScratch_alive (s : State) (k : OpKind) : (s.releaseScratch k).alive = s.alive := by
  unfold State.releaseScratch; split <;> rfl
@[simp] theorem releaseScratch_trace (s : State) (k : OpKind) : (s.releaseScratch k).trace = s.trace := by
  unfold State.releaseScratch; split <;> rfl
@[simp] theorem releaseScratch_completions (s : State) (k : OpKind) : (s.releaseScratch k).completions = s.completions := by
  unfold State.releaseScratch; split <;> rfl
@[simp] theorem releaseScratch_caller (s : State) (k : OpKind) : (s.releaseScratch k).caller = s.caller := by
  unfold State.releaseScratch; split <;> rfl
@[simp] theorem releaseScratch_answers (s : State) (k : OpKind) : (s.releaseScratch k).answers = s.answers := by
  unfold State.releaseScratch; split <;> rfl
@[simp] theorem releaseScratch_ctrlDefined (s : State) (k : OpKind) : (s.releaseScratch k).ctrlDefined = s.ctrlDefined := by
  unfold State.releaseScratch; split <;> rfl
@[simp] theorem releaseScratch_ctrlColumns (s : State) (k : OpKind) : (s.releaseScratch k).ctrlColumns = s.ctrlColumns := by
  unfold State.releaseScratch; split <;> rfl
@[simp] theorem releaseScratch_ctrlRows (s : State) (k : OpKind) : (s.releaseScratch k).ctrlRows = s.ctrlRows := by
  unfold State.releaseScratch; split <;> rfl

/-! ## noteEnd (only the ghost state can change) -/

@[simp] theorem noteEnd_cfg (s : State) (k : OpKind) (c : Completion) : (s.noteEnd k c).cfg = s.cfg := by
  unfold State.noteEnd; split <;> rfl
@[simp] theorem noteEnd_madctl (s : State) (k : OpKind) (c : Completion) : (s.noteEnd k c).madctl = s.madctl := by
  unfold State.noteEnd; split <;> rfl
@[simp] theorem noteEnd_convBuf (s : State) (k : OpKind) (c : Completion) : (s.noteEnd k c).convBuf = s.convBuf := by
  unfold State.noteEnd; split <;> rfl
@[simp] theorem noteEnd_resetLine (s : State) (k : OpKind) (c : Completion) : (s.noteEnd k c).resetLine = s.resetLine := by
  unfold State.noteEnd; split <;> rfl
@[simp] theorem noteEnd_current (s : State) (k : OpKind) (c : Completion) : (s.noteEnd k c).current = s.current := by
  unfold State.noteEnd; split <;> rfl
@[simp] theorem noteEnd_alive (s : State) (k : OpKind) (c : Completion) : (s.noteEnd k c).alive = s.alive := by
  unfold State.noteEnd; split <;> rfl
@[simp] theorem noteEnd_trace (s : State) (k : OpKind) (c : Completion) : (s.noteEnd k c).trace = s.trace := by
  unfold State.noteEnd; split <;> rfl
@[simp] theorem noteEnd_completions (s : State) (k : OpKind) (c : Completion) : (s.noteEnd k c).completions = s.completions := by
  unfold State.noteEnd; split <;> rfl
@[simp] theorem noteEnd_caller (s : State) (k : OpKind) (c : Completion) : (s.noteEnd k c).caller = s.caller := by
  unfold State.noteEnd; split <;> rfl
@[simp] theorem noteEnd_answers (s : State) (k : OpKind) (c : Completion) : (s.noteEnd k c).answers = s.answers := by
  unfold State.noteEnd; split <;> rfl

/-! ## finish -/

@[simp] theorem finish_cfg (s : State) (k : OpKind) (c : Completion) : (s.finish k c).cfg = s.cfg := by
  simp [State.finish]
@[simp] theorem finish_madctl (s : State) (k : OpKind) (c : Completion) : (s.finish k c).madctl = s.madctl := by
  simp [State.finish]
@[simp] theorem finish_convBuf (s : State) (k : OpKind) (c : Completion) : (s.finish k c).convBuf = (if k = .draw then [] else s.convBuf) := by
  simp [State.finish]
@[simp] theorem finish_resetLine (s : State) (k : OpKind) (c : Completion) : (s.finish k c).resetLine = s.resetLine := by
  simp [State.finish]
@[simp] theorem finish_current (s : State) (k : OpKind) (c : Completion) : (s.finish k c).current = none := by
  simp [State.finish]
@[simp] theorem finish_alive (s : State) (k : OpKind) (c : Completion) : (s.finish k c).alive = s.alive := by
  simp [State.finish]
@[simp] theorem finish_trace (s : State) (k : OpKind) (c : Completion) : (s.finish k c).trace = s.trace := by
  simp [State.finish]
@[simp] theorem finish_completions (s : State) (k : OpKind) (c : Completion) : (s.finish k c).completions = (if k = .bare then s.completions else s.completions ++ [c]) := by
  simp [State.finish]
@[simp] theorem finish_caller (s : State) (k : OpKind) (c : Completion) : (s.finish k c).caller = s.caller := by
  simp [State.finish]
@[simp] theorem finish_answers (s : State) (k : OpKind) (c : Completion) : (s.finish k c).answers = s.answers := by
  simp [State.finish]

end Sys2Proof.Machine
end

