-- ==== Sys2Proof/Laws/Ops.lean ====
section
/-! SUPPORT. What each shared operation does, said once: the scratch buffer, attempting a transaction, running an operation,
the guards. Later proofs cite these instead of unfolding the operations. -/

namespace Sys2Proof.Machine

/-! ## The scratch buffer -/

/-- A byte just written is read back. -/
@[simp] theorem readByte_writeByte_same (m : Memory) (a : Nat) (b : Byte) : readByte (writeByte m a b) a = some b := by
  induction m with
  | nil => simp [writeByte, readByte]
  | cons c m ih =>
    obtain ⟨x, v⟩ := c
    simp only [writeByte]
    split
    · simp [readByte]
    · split
      · simp [readByte]
      · rename_i h1 h2
        have : x ≠ a := fun h => h2 h.symm
        simp [readByte, this, ih]

/-- A write leaves every other index alone. -/
theorem readByte_writeByte_other (m : Memory) {a a' : Nat} (b : Byte) (h : a' ≠ a) :
    readByte (writeByte m a b) a' = readByte m a' := by
  induction m with
  | nil => simp [writeByte, readByte, Ne.symm h]
  | cons c m ih =>
    obtain ⟨x, v⟩ := c
    simp only [writeByte]
    split
    · simp [readByte, Ne.symm h]
    · split
      · rename_i _ h2
        subst h2
        simp [readByte, Ne.symm h]
      · simp [readByte, ih]

/-- Consecutive writes: inside the written range the new bytes are read, outside it the old ones. -/
theorem readByte_writeBytes (bs : List Byte) (m : Memory) (a i : Nat) :
    readByte (writeBytes m a bs) i = if a ≤ i ∧ i < a + bs.length then bs[i - a]? else readByte m i := by
  induction bs generalizing m a with
  | nil => simp [writeBytes]
  | cons b bs ih =>
    simp only [writeBytes, ih, List.length_cons]
    by_cases h1 : i = a
    · subst h1
      simp
    · rw [readByte_writeByte_other _ _ h1]
      by_cases h2 : a + 1 ≤ i ∧ i < a + 1 + bs.length
      · have h3 : a ≤ i ∧ i < a + (bs.length + 1) := by omega
        have h4 : i - a = (i - (a + 1)) + 1 := by omega
        simp [h2, h3, h4]
      · have h3 : ¬(a ≤ i ∧ i < a + (bs.length + 1)) := by omega
        rw [if_neg h2, if_neg h3]

/-- The entries after a write are the old ones and the one written. -/
theorem mem_writeByte {m : Memory} {a : Nat} {b : Byte} {c : Host.Cell} (h : c ∈ writeByte m a b) :
    c = (a, b) ∨ c ∈ m := by
  induction m with
  | nil => simpa [writeByte] using h
  | cons d m ih =>
    obtain ⟨x, v⟩ := d
    simp only [writeByte] at h
    split at h
    · simpa using h
    · split at h
      · rcases List.mem_cons.mp h with h | h
        · exact .inl h
        · exact .inr (List.mem_cons_of_mem _ h)
      · rcases List.mem_cons.mp h with h | h
        · exact .inr (h ▸ List.mem_cons_self)
        · exact (ih h).imp id (List.mem_cons_of_mem _)

/-- A write keeps the canonical form. -/
theorem writeByte_wf {m : Memory} (h : Memory.wf m) (a : Nat) (b : Byte) : Memory.wf (writeByte m a b) := by
  induction m with
  | nil => simp [writeByte, Memory.wf]
  | cons d m ih =>
    obtain ⟨x, v⟩ := d
    have hx : ∀ c ∈ m, x < c.1 := (List.pairwise_cons.mp h).1
    have hm : Memory.wf m := (List.pairwise_cons.mp h).2
    simp only [writeByte]
    split
    · rename_i hax
      refine List.pairwise_cons.mpr ⟨fun c hc => ?_, h⟩
      rcases List.mem_cons.mp hc with rfl | hc
      · exact hax
      · exact Nat.lt_trans hax (hx c hc)
    · split
      · rename_i _ hax
        exact List.pairwise_cons.mpr ⟨fun c hc => hax ▸ hx c hc, hm⟩
      · refine List.pairwise_cons.mpr ⟨fun c hc => ?_, ih hm⟩
        rcases mem_writeByte hc with rfl | hc
        · show x < a
          omega
        · exact hx c hc

/-- Consecutive writes keep the canonical form. -/
theorem writeBytes_wf (bs : List Byte) {m : Memory} (h : Memory.wf m) (a : Nat) : Memory.wf (writeBytes m a bs) := by
  induction bs generalizing m a with
  | nil => exact h
  | cons b bs ih => exact ih (writeByte_wf h a b) (a + 1)

/-- The entries after consecutive writes are old ones or lie in the written range. -/
theorem mem_writeBytes (bs : List Byte) {m : Memory} {a : Nat} {c : Host.Cell} (h : c ∈ writeBytes m a bs) :
    c ∈ m ∨ (a ≤ c.1 ∧ c.1 < a + bs.length) := by
  induction bs generalizing m a with
  | nil => exact .inl h
  | cons b bs ih =>
    rcases ih h with h | h
    · rcases mem_writeByte h with rfl | h
      · exact .inr (by simp)
      · exact .inl h
    · exact .inr (by simp only [List.length_cons]; omega)

/-- The empty buffer is in canonical form. -/
theorem wf_nil : Memory.wf [] := List.Pairwise.nil

/-- Three bytes per pixel. -/
@[simp] theorem convAll_length (px : List Half) : (convAll px).length = 3 * px.length := by
  induction px with
  | nil => rfl
  | cons p px ih => simp only [convAll, List.flatMap_cons, List.length_append] at ih ⊢; simp [ih, conv]; omega

/-- The payload read back from CONV_BUF is the conversion of the pixels just converted into it. -/
theorem scratchBytes_convertPixels (s : State) (px : List Half) :
    scratchBytes (s.convertPixels px) px.length = convAll px := by
  apply List.ext_getElem?
  intro i
  by_cases h : i < 3 * px.length
  · have h' : i < (convAll px).length := by simpa using h
    simp [scratchBytes, scratchByte, readByte_writeBytes, h]
  · have h' : (convAll px).length ≤ i := by simpa using h
    rw [List.getElem?_eq_none h', List.getElem?_eq_none (by simp [scratchBytes]; omega)]

/-! ## Attempting a transaction -/

theorem attempt_unanswered {s : State} (h : s.answers = []) (k : OpKind) (p : Nat) (t : Txn) (r : List Action)
    (next : State → State) : attempt k p t r next s = s.waitFor k p t r := by simp [attempt, h]

theorem attempt_ok {s : State} {as : List Answer} (h : s.answers = .ok :: as) (k : OpKind) (p : Nat) (t : Txn)
    (r : List Action) (next : State → State) : attempt k p t r next s = next (s.accepted t as) := by simp [attempt, h]

theorem attempt_fail {s : State} {as : List Answer} (h : s.answers = .fail :: as) (k : OpKind) (p : Nat) (t : Txn)
    (r : List Action) (next : State → State) :
    attempt k p t r next s = (s.failed t as).finish k (.transportFailure t.cmd p) := by simp [attempt, h]

/-- An attempt does one of three things (R183, R207). -/
theorem attempt_cases (k : OpKind) (p : Nat) (t : Txn) (r : List Action) (next : State → State) (s : State) :
    (s.answers = [] ∧ attempt k p t r next s = s.waitFor k p t r) ∨
    (∃ as, s.answers = .ok :: as ∧ attempt k p t r next s = next (s.accepted t as)) ∨
    (∃ as, s.answers = .fail :: as ∧
      attempt k p t r next s = (s.failed t as).finish k (.transportFailure t.cmd p)) := by
  rcases h : s.answers with _ | ⟨_ | _, as⟩
  · exact .inl ⟨rfl, attempt_unanswered h ..⟩
  · exact .inr (.inl ⟨as, rfl, attempt_ok h ..⟩)
  · exact .inr (.inr ⟨as, rfl, attempt_fail h ..⟩)

/-! ## Running an operation: one equation per step -/

@[simp] theorem run_nil (k : OpKind) (p : Nat) (s : State) : run k p [] s = s.finish k .ok := rfl

@[simp] theorem run_rst (k : OpKind) (p : Nat) (l : Level) (r : List Action) (s : State) :
    run k p (.rst l :: r) s = run k p r (s.driveReset l) := rfl

@[simp] theorem run_delay (k : OpKind) (p : Nat) (ms : Nat) (r : List Action) (s : State) :
    run k p (.delay ms :: r) s = run k p r (s.emit (.delay ms)) := rfl

@[simp] theorem run_convert (k : OpKind) (p : Nat) (px : List Half) (r : List Action) (s : State) :
    run k p (.convert px :: r) s = run k p r (s.convertPixels px) := rfl

@[simp] theorem run_setMadctl (k : OpKind) (p : Nat) (m : Byte) (r : List Action) (s : State) :
    run k p (.setMadctl m :: r) s = run k p r { s with madctl := m } := rfl

theorem run_tx (k : OpKind) (p : Nat) (t : Txn) (r : List Action) (s : State) :
    run k p (.tx t :: r) s = attempt k p t r (run k (p + 1) r) s := rfl

theorem run_txScratch (k : OpKind) (p : Nat) (n : Nat) (r : List Action) (s : State) :
    run k p (.txScratch n :: r) s = run k p (.tx (payloadTxn (scratchBytes s n)) :: r) s := rfl

theorem run_tx_ok {s : State} {as : List Answer} (h : s.answers = .ok :: as) (k : OpKind) (p : Nat) (t : Txn)
    (r : List Action) : run k p (.tx t :: r) s = run k (p + 1) r (s.accepted t as) := by
  rw [run_tx, attempt_ok h]

theorem run_tx_fail {s : State} {as : List Answer} (h : s.answers = .fail :: as) (k : OpKind) (p : Nat) (t : Txn)
    (r : List Action) : run k p (.tx t :: r) s = (s.failed t as).finish k (.transportFailure t.cmd p) := by
  rw [run_tx, attempt_fail h]

theorem run_tx_unanswered {s : State} (h : s.answers = []) (k : OpKind) (p : Nat) (t : Txn) (r : List Action) :
    run k p (.tx t :: r) s = s.waitFor k p t r := by
  rw [run_tx, attempt_unanswered h]

/-! ## What running an operation never touches -/

/-- A relation that every elementary state change keeps is kept by running an operation. -/
theorem run_preserves {P : State → Prop} {k : OpKind}
    (hwait : ∀ s p t r, P s → P (s.waitFor k p t r))
    (haccept : ∀ s t as, s.answers = .ok :: as → P s → P (s.accepted t as))
    (hfail : ∀ s t as, s.answers = .fail :: as → P s → P (s.failed t as))
    (hfinish : ∀ s c, P s → P (s.finish k c))
    (hrst : ∀ s l, P s → P (s.driveReset l))
    (hdelay : ∀ s ms, P s → P (s.emit (.delay ms)))
    (hconvert : ∀ s px, P s → P (s.convertPixels px))
    (hmode : ∀ s m, P s → P { s with madctl := m })
    (acts : List Action) (p : Nat) (s : State) (h : P s) : P (run k p acts s) := by
  have htx : ∀ (t : Txn) (r : List Action), (∀ p s, P s → P (run k p r s)) → ∀ p s, P s → P (run k p (.tx t :: r) s) := by
    intro t r ih p s h
    rw [run_tx]
    rcases attempt_cases k p t r (run k (p + 1) r) s with ⟨_, e⟩ | ⟨as, ha, e⟩ | ⟨as, ha, e⟩
    · rw [e]; exact hwait _ _ _ _ h
    · rw [e]; exact ih _ _ (haccept _ _ _ ha h)
    · rw [e]; exact hfinish _ _ (hfail _ _ _ ha h)
  induction acts generalizing p s with
  | nil => exact hfinish _ _ h
  | cons a acts ih =>
    cases a with
    | tx t => exact htx t acts (fun p s => ih p s) p s h
    | txScratch n => rw [run_txScratch]; exact htx _ acts (fun p s => ih p s) p s h
    | rst l => exact ih _ _ (hrst _ _ h)
    | delay ms => exact ih _ _ (hdelay _ _ h)
    | convert px => exact ih _ _ (hconvert _ _ h)
    | setMadctl m => exact ih _ _ (hmode _ _ h)

/-- No operation writes the configuration (R34). -/
@[simp] theorem run_cfg (k : OpKind) (p : Nat) (acts : List Action) (s : State) : (run k p acts s).cfg = s.cfg :=
  run_preserves (P := fun t => t.cfg = s.cfg) (by simp) (by simp) (by simp) (by simp) (by simp) (by simp) (by simp)
    (by simp) acts p s rfl

/-- No operation destroys the engine. -/
@[simp] theorem run_alive (k : OpKind) (p : Nat) (acts : List Action) (s : State) : (run k p acts s).alive = s.alive :=
  run_preserves (P := fun t => t.alive = s.alive) (by simp) (by simp) (by simp) (by simp) (by simp) (by simp) (by simp)
    (by simp) acts p s rfl

/-- No operation touches what the caller will ask next. -/
@[simp] theorem run_caller (k : OpKind) (p : Nat) (acts : List Action) (s : State) : (run k p acts s).caller = s.caller :=
  run_preserves (P := fun t => t.caller = s.caller) (by simp) (by simp) (by simp) (by simp) (by simp) (by simp) (by simp)
    (by simp) acts p s rfl

/-- Events already emitted stay emitted (R207). -/
theorem run_trace_grows (k : OpKind) (p : Nat) (acts : List Action) (s : State) :
    s.trace <+: (run k p acts s).trace :=
  run_preserves (P := fun t => s.trace <+: t.trace) (by simp)
    (fun _ _ _ _ h => by simpa using h.trans (List.prefix_append _ _))
    (fun _ _ _ _ h => by simpa using h.trans (List.prefix_append _ _))
    (by simp)
    (fun _ _ h => by simpa using h.trans (List.prefix_append _ _))
    (fun _ _ h => by simpa using h.trans (List.prefix_append _ _))
    (by simp) (by simp) acts p s (List.prefix_refl _)

/-! ## The guards -/

@[simp] theorem guarded_idle {s : State} (ha : s.alive = true) (hc : s.current = none) (go : Result) : guarded s go = go := by
  simp [guarded, ha, hc]

/-- A guarded request answers a next state only when it was admitted. -/
theorem guarded_next {s t : State} {go : Result} (h : guarded s go = .next t) :
    s.alive = true ∧ s.current = none ∧ go = .next t := by
  unfold guarded at h
  split at h
  · cases h
  · cases h
  · rename_i ha hc; exact ⟨ha, hc, h⟩

/-- A transaction on its own. -/
theorem transmit_bare {s : State} (ha : s.alive = true) (hc : s.current = none) (t : Txn) :
    transmit t s = .next (run .bare 1 [.tx t] s) := by simp [transmit, ha, hc]

/-- The outstanding transaction of an operation, once there is an answer. -/
theorem transmit_answered {s : State} {op : Operation} {a : Answer} {as : List Answer} (ha : s.alive = true)
    (hc : s.current = some op) (hs : s.answers = a :: as) (t : Txn) :
    transmit t s = .next (run op.kind op.phase (.tx t :: op.rest) s) := by simp [transmit, ha, hc, hs]

/-- Everything a wire row can answer. -/
theorem transmit_next {s s' : State} {t : Txn} (h : transmit t s = .next s') :
    s.alive = true ∧
      ((s.current = none ∧ s' = run .bare 1 [.tx t] s) ∨
       (∃ op, s.current = some op ∧ s.answers ≠ [] ∧ s' = run op.kind op.phase (.tx t :: op.rest) s)) := by
  unfold transmit at h
  split at h
  · cases h
  · rename_i ha hc; exact ⟨ha, .inl ⟨hc, by injection h with h; exact h.symm⟩⟩
  · rename_i op ha hc
    split at h
    · cases h
    · rename_i hs; exact ⟨ha, .inr ⟨op, hc, by simp [hs], by injection h with h; exact h.symm⟩⟩

end Sys2Proof.Machine
end

