-- ==== Sys2Proof/Laws/PerInstr.lean ====
section
/-! SUPPORT. The family RoundTrip: a well-formed instruction is decoded from its own encoding, one lemma per constructor. -/

namespace Sys2Proof.Laws.RoundTrip

/-- Decoding the encoding of a well-formed instruction gives it back (spec 30_encoding.md R72, R80). -/
def Statement (i : Instr) : Prop := i.wellFormed = true → decode (encode i) = .ok i

theorem reset : Statement .reset := fun _ => rfl

theorem init : Statement .init := fun _ => rfl

theorem draw (xs ys xe ye : Half) (px : List Half) : Statement (.draw xs ys xe ye px) := by
  intro _
  simp [encode, decode, decodeRequest, drawRequest]

theorem setMirror (x y : Bool) : Statement (.setMirror x y) := by cases x <;> cases y <;> exact fun _ => rfl

theorem setSwapAxes (s : Bool) : Statement (.setSwapAxes s) := by cases s <;> exact fun _ => rfl

theorem invertColor (v : Bool) : Statement (.invertColor v) := by cases v <;> exact fun _ => rfl

theorem displayPower (p : Bool) : Statement (.displayPower p) := by cases p <;> exact fun _ => rfl

theorem swreset : Statement .swreset := fun _ => rfl

theorem slpout : Statement .slpout := fun _ => rfl

theorem invoff : Statement .invoff := fun _ => rfl

theorem invon : Statement .invon := fun _ => rfl

theorem dispoff : Statement .dispoff := fun _ => rfl

theorem dispon : Statement .dispon := fun _ => rfl

theorem caset (a b : Half) : Statement (.caset a b) := by
  intro _
  simp only [encode, decode_wireTxn, commandInstr, parseCoord8_coord8, Option.map_some]

theorem raset (a b : Half) : Statement (.raset a b) := by
  intro _
  simp only [encode, decode_wireTxn, commandInstr, parseCoord8_coord8, Option.map_some]

theorem ramwr : Statement .ramwr := fun _ => rfl

theorem madctl (m : Byte) : Statement (.madctl m) := fun _ => rfl

theorem pixfmt : Statement .pixfmt := fun _ => rfl

theorem vendorB0 (d : List Byte) : Statement (.vendorB0 d) := fun _ => rfl

theorem vendorB1 (d : List Byte) : Statement (.vendorB1 d) := fun _ => rfl

theorem vendorB4 (d : List Byte) : Statement (.vendorB4 d) := fun _ => rfl

theorem vendorB6 (d : List Byte) : Statement (.vendorB6 d) := fun _ => rfl

theorem vendorB7 (d : List Byte) : Statement (.vendorB7 d) := fun _ => rfl

theorem vendorC0 (d : List Byte) : Statement (.vendorC0 d) := fun _ => rfl

theorem vendorC1 (d : List Byte) : Statement (.vendorC1 d) := fun _ => rfl

theorem vendorC5 (d : List Byte) : Statement (.vendorC5 d) := fun _ => rfl

theorem vendorE0 (d : List Byte) : Statement (.vendorE0 d) := fun _ => rfl

theorem vendorE1 (d : List Byte) : Statement (.vendorE1 d) := fun _ => rfl

theorem payload (d : List Byte) : Statement (.payload d) := by
  intro h
  simp [encode, decode, decodeTxn, Machine.payloadTxn, h]

end Sys2Proof.Laws.RoundTrip
end

