-- ==== Sys2Proof/Laws/Step.lean ====
section
/-! SUPPORT. The meanings behind `exec` and `step`, said once: a wire row is one transmission, a request is one run of its
script, a step is fetch, decode, run. -/

namespace Sys2Proof.Machine

/-- A row of the wire side is the transmission of its own encoding. -/
theorem exec_of_encode_txn {i : Instr} {t : Txn} (h : encode i = .txn t) (s : State) : exec i s = transmit t s := by
  cases i <;> first
    | (simp only [encode, Frame.txn.injEq, reduceCtorEq] at h; subst h; rfl)
    | (simp only [encode, reduceCtorEq] at h)

/-- The requests are the instructions encoded as request frames. -/
theorem encode_request {i : Instr} (h : isRequest i = true) : ∃ f, encode i = .req f := by
  cases i <;> first
    | exact ⟨_, rfl⟩
    | cases h

/-- The other rows are encoded as transactions. -/
theorem encode_wire {i : Instr} (h : isRequest i = false) : ∃ t, encode i = .txn t := by
  cases i <;> first
    | exact ⟨_, rfl⟩
    | cases h

/-- A step with an operation in progress decodes its outstanding transaction. -/
theorem step_outstanding {s : State} {op : Operation} (h : s.current = some op) :
    step s = runDecoded s exec (decode (.txn op.tx)) := by
  simp [step, stepWith, fetch, h]

/-- A step between requests decodes the request the caller asks. -/
theorem step_request {s : State} {f : ReqFrame} {more : List CallerEvent} (h : s.current = none)
    (hc : s.caller = .request f :: more) :
    step s = runDecoded { s with caller := more } exec (decode (.req f)) := by
  simp [step, stepWith, fetch, h, hc]

/-- A step between requests destroys the engine if the caller says so (R234). -/
theorem step_teardown {s : State} {more : List CallerEvent} (h : s.current = none) (hc : s.caller = .teardown :: more) :
    step s = teardownStep { s with caller := more } := by
  simp [step, stepWith, fetch, h, hc]

/-- With no request in progress and nothing asked the state stays as it is, of a destroyed engine too (notes/assumptions/13.md). -/
theorem step_idle {s : State} (h : s.current = none) (hc : s.caller = []) : step s = .next s := by
  simp [step, stepWith, fetch, h, hc]

/-- Every way a step can answer a next state. -/
theorem step_next {s t : State} (h : step s = .next t) :
    (∃ op i, s.current = some op ∧ decode (.txn op.tx) = .ok i ∧ exec i s = .next t) ∨
    (s.current = none ∧ s.caller = [] ∧ t = s) ∨
    (∃ f more i, s.current = none ∧ s.caller = .request f :: more ∧ decode (.req f) = .ok i ∧
      exec i { s with caller := more } = .next t) ∨
    (∃ more, s.current = none ∧ s.caller = .teardown :: more ∧ s.alive = true ∧
      t = State.teardown { s with caller := more }) := by
  rcases Option.eq_none_or_eq_some s.current with hc | ⟨op, hc⟩
  · rcases hq : s.caller with _ | ⟨f | _, more⟩
    · rw [step_idle hc hq] at h
      injection h with h
      exact .inr (.inl ⟨hc, rfl, h.symm⟩)
    · rw [step_request hc hq] at h
      rcases hd : decode (.req f) with i | e
      · rw [hd] at h
        exact .inr (.inr (.inl ⟨f, more, i, hc, rfl, hd, h⟩))
      · rw [hd] at h; cases h
    · rw [step_teardown hc hq] at h
      unfold teardownStep at h
      split at h
      · rename_i ha
        injection h with h
        exact .inr (.inr (.inr ⟨more, hc, rfl, ha, h.symm⟩))
      · cases h
  · rw [step_outstanding hc] at h
    rcases hd : decode (.txn op.tx) with i | e
    · rw [hd] at h
      exact .inl ⟨op, i, hc, hd, h⟩
    · rw [hd] at h; cases h

end Sys2Proof.Machine
end

