-- ==== Sys2Proof/Tests/Slice0.lean ====
section
/-! SUPPORT. The model's own tests: ill-formed terms, words written out from the spec's tables, the spec's vectors
(95_test_vectors.md), and for every obligation with hypotheses a witness that meets them. -/

namespace Sys2Proof.Tests

open Machine

/-! ## Helpers -/

/-- An example configuration: gaps 0, a reset line, the vendor table of vector I3, MADCTL_DEFAULT 0x08. -/
def demo (cap : BitVec 32) : Configuration := ⟨0#16, 0#16, cap, true, 0x08#8, [⟨.b0, [0x00#8]⟩, ⟨.e0, [1#8, 2#8, 3#8]⟩], 10⟩

/-- An idle engine with mode register `m` and the answers to come. -/
def engine (cfg : Configuration) (m : Byte) (as : List Answer) : State :=
  { State.built cfg with madctl := m, resetLine := .high, answers := as }

/-- The next state of an outcome, if it is one. -/
def next? : Result → Option State
  | .next s => some s
  | .fault _ => none
  | .refused _ => none

/-- The refusal of an outcome, if it is one. -/
def refusal? : Result → Option Refusal
  | .refused r => some r
  | .next _ => none
  | .fault _ => none

/-- The trace after an outcome. -/
def traceOf (r : Result) : Option (List Event) := (next? r).map State.trace

/-- The completions after an outcome. -/
def doneOf (r : Result) : Option (List Completion) := (next? r).map State.completions

/-- The mode register after an outcome. -/
def modeOf (r : Result) : Option Byte := (next? r).map State.madctl

/-! ## WellFormed: one ill-formed term for each check -/

theorem test_draw_empty_columns_ill_formed : (Instr.draw 5#16 5#16 5#16 6#16 []).wellFormed = false := by decide
theorem test_draw_empty_rows_ill_formed : (Instr.draw 5#16 6#16 6#16 6#16 []).wellFormed = false := by decide
theorem test_draw_pixel_count_ill_formed : (Instr.draw 0#16 0#16 2#16 1#16 [0#16]).wellFormed = false := by decide
theorem test_caset_inverted_ill_formed : (Instr.caset 6#16 5#16).wellFormed = false := by decide
theorem test_raset_inverted_ill_formed : (Instr.raset 6#16 5#16).wellFormed = false := by decide
theorem test_payload_empty_ill_formed : (Instr.payload []).wellFormed = false := by decide
theorem test_payload_low_red_bit_ill_formed : (Instr.payload [0x01#8, 0#8, 0#8]).wellFormed = false := by decide
theorem test_payload_low_green_bit_ill_formed : (Instr.payload [0#8, 0x02#8, 0#8]).wellFormed = false := by decide
theorem test_payload_low_blue_bit_ill_formed : (Instr.payload [0#8, 0#8, 0x04#8]).wellFormed = false := by decide
theorem test_payload_split_pixel_ill_formed : (Instr.payload [0xF8#8, 0xFC#8]).wellFormed = false := by decide

/-! ## Decoding: one frame for each constructor, written from R72, R80, R90 -/

theorem test_decode_reset : decode (.req ⟨0b00000000#8, []⟩) = .ok .reset := by decide
theorem test_decode_init : decode (.req ⟨0b00010000#8, []⟩) = .ok .init := by decide
theorem test_decode_draw :
    decode (.req ⟨0b00100000#8, [7#16, 9#16, 8#16, 10#16, 0xFFFF#16]⟩) = .ok (.draw 7#16 9#16 8#16 10#16 [0xFFFF#16]) := by
  decide
theorem test_decode_setMirror : decode (.req ⟨0b00110001#8, []⟩) = .ok (.setMirror true false) := by decide
theorem test_decode_setMirror_y : decode (.req ⟨0b00110010#8, []⟩) = .ok (.setMirror false true) := by decide
theorem test_decode_setSwapAxes : decode (.req ⟨0b01000001#8, []⟩) = .ok (.setSwapAxes true) := by decide
theorem test_decode_invertColor : decode (.req ⟨0b01010001#8, []⟩) = .ok (.invertColor true) := by decide
theorem test_decode_displayPower : decode (.req ⟨0b01100000#8, []⟩) = .ok (.displayPower false) := by decide
theorem test_decode_swreset : decode (.txn ⟨.param, some 0x01#8, []⟩) = .ok .swreset := by decide
theorem test_decode_slpout : decode (.txn ⟨.param, some 0x11#8, []⟩) = .ok .slpout := by decide
theorem test_decode_invoff : decode (.txn ⟨.param, some 0x20#8, []⟩) = .ok .invoff := by decide
theorem test_decode_invon : decode (.txn ⟨.param, some 0x21#8, []⟩) = .ok .invon := by decide
theorem test_decode_dispoff : decode (.txn ⟨.param, some 0x28#8, []⟩) = .ok .dispoff := by decide
theorem test_decode_dispon : decode (.txn ⟨.param, some 0x29#8, []⟩) = .ok .dispon := by decide
/-- Vector Q5. -/
theorem test_decode_caset :
    decode (.txn ⟨.color, some 0x2A#8, [0x00#8, 0x00#8, 0x00#8, 0xFF#8, 0x00#8, 0x01#8, 0x00#8, 0x00#8]⟩) =
      .ok (.caset 255#16 256#16) := by decide
/-- Vector Q7. -/
theorem test_decode_raset :
    decode (.txn ⟨.color, some 0x2B#8, [0x00#8, 0x12#8, 0x00#8, 0x34#8, 0x00#8, 0xAB#8, 0x00#8, 0xCD#8]⟩) =
      .ok (.raset 0x1234#16 0xABCD#16) := by decide
theorem test_decode_ramwr : decode (.txn ⟨.param, some 0x2C#8, []⟩) = .ok .ramwr := by decide
theorem test_decode_madctl : decode (.txn ⟨.param, some 0x36#8, [0x68#8]⟩) = .ok (.madctl 0x68#8) := by decide
theorem test_decode_pixfmt : decode (.txn ⟨.param, some 0x3A#8, [0x66#8]⟩) = .ok .pixfmt := by decide
theorem test_decode_vendorB0 : decode (.txn ⟨.param, some 0xB0#8, [0#8]⟩) = .ok (.vendorB0 [0#8]) := by decide
theorem test_decode_vendorB1 : decode (.txn ⟨.param, some 0xB1#8, [1#8]⟩) = .ok (.vendorB1 [1#8]) := by decide
theorem test_decode_vendorB4 : decode (.txn ⟨.param, some 0xB4#8, [2#8]⟩) = .ok (.vendorB4 [2#8]) := by decide
theorem test_decode_vendorB6 : decode (.txn ⟨.param, some 0xB6#8, [3#8]⟩) = .ok (.vendorB6 [3#8]) := by decide
theorem test_decode_vendorB7 : decode (.txn ⟨.param, some 0xB7#8, [4#8]⟩) = .ok (.vendorB7 [4#8]) := by decide
theorem test_decode_vendorC0 : decode (.txn ⟨.param, some 0xC0#8, [5#8]⟩) = .ok (.vendorC0 [5#8]) := by decide
theorem test_decode_vendorC1 : decode (.txn ⟨.param, some 0xC1#8, [6#8]⟩) = .ok (.vendorC1 [6#8]) := by decide
theorem test_decode_vendorC5 : decode (.txn ⟨.param, some 0xC5#8, [7#8]⟩) = .ok (.vendorC5 [7#8]) := by decide
theorem test_decode_vendorE0 : decode (.txn ⟨.param, some 0xE0#8, [8#8, 9#8]⟩) = .ok (.vendorE0 [8#8, 9#8]) := by decide
theorem test_decode_vendorE1 : decode (.txn ⟨.param, some 0xE1#8, []⟩) = .ok (.vendorE1 []) := by decide
/-- Vector K7: the payload of one pixel 0x1234. -/
theorem test_decode_payload :
    decode (.txn ⟨.color, none, [0x10#8, 0x44#8, 0xA0#8]⟩) = .ok (.payload [0x10#8, 0x44#8, 0xA0#8]) := by decide

/-- A non-zero unused header bit is reserved (R74). -/
theorem test_decode_reserved_bit : decode (.req ⟨0x34#8, []⟩) = .rejected (.reservedHeader 0x34#8) := by decide
/-- Operation select 7 is reserved (R74). -/
theorem test_decode_reserved_select : decode (.req ⟨0x70#8, []⟩) = .rejected (.reservedHeader 0x70#8) := by decide
/-- A request has exactly its operand values (R75). -/
theorem test_decode_operand_count : decode (.req ⟨0x10#8, [1#16]⟩) = .rejected (.wrongOperandCount 0x10#8) := by decide
/-- 0x2A is no PARAM command (R77, C1). -/
theorem test_decode_caset_param :
    decode (.txn ⟨.param, some 0x2A#8, coord8 0#16 0#16⟩) = .rejected (.wrongForm ⟨.param, some 0x2A#8, coord8 0#16 0#16⟩) := by
  decide
/-- The engine emits no command 0x00 (R80). -/
theorem test_decode_unknown_command : decode (.txn ⟨.param, some 0x00#8, []⟩) = .rejected (.unknownCommand 0x00#8) := by decide

/-- Each vendor opcode of the opcode table read as a table word. -/
theorem test_table_word_vendor : decodeTableWord 8 0xC5 = some (.vendorC5 []) := by decide
/-- The word 0x20 is both a DRAW header and the INVOFF command; as a request it is DRAW (notes/assumptions/9.md). -/
theorem test_table_word_draw : decodeTableWord 8 0x20 = some (.draw 0#16 0#16 0#16 0#16 []) := by decide
/-- The row without a word. -/
theorem test_table_word_payload : decodeTableWord 0 0 = some (.payload [0#8, 0#8, 0#8]) := by decide

/-! ## Operands: vectors S1, K4, K8, Q5, Q9 -/

theorem test_conv_red : conv 0xF800#16 = [0xF8#8, 0x00#8, 0x00#8] := by decide
theorem test_conv_green : conv 0x07E0#16 = [0x00#8, 0xFC#8, 0x00#8] := by decide
theorem test_conv_blue : conv 0x001F#16 = [0x00#8, 0x00#8, 0xF8#8] := by decide
theorem test_conv_lowest_steps : conv 0x0821#16 = [0x08#8, 0x04#8, 0x08#8] := by decide
theorem test_conv_mixed : conv 0xABCD#16 = [0xA8#8, 0x78#8, 0x68#8] := by decide
theorem test_coord8_carry :
    coord8 255#16 256#16 = [0x00#8, 0x00#8, 0x00#8, 0xFF#8, 0x00#8, 0x01#8, 0x00#8, 0x00#8] := by decide
theorem test_coord8_largest :
    coord8 0xFFFF#16 0xFFFF#16 = [0x00#8, 0xFF#8, 0x00#8, 0xFF#8, 0x00#8, 0xFF#8, 0x00#8, 0xFF#8] := by decide

/-! ## Requests: one step each, expected results from 95_test_vectors.md -/

/-- Vector T3: RESET keeps MADCTL and leaves the line high. -/
theorem test_reset :
    traceOf (exec .reset (engine (demo 4) 0xE8#8 [])) = some [.rst .low, .delay 10, .rst .high, .delay 10] ∧
    modeOf (exec .reset (engine (demo 4) 0xE8#8 [])) = some 0xE8#8 := by decide
/-- Vector T2. -/
theorem test_reset_without_line :
    traceOf (exec .reset (engine { demo 4 with hasRst := false } 0x08#8 [])) = some [] ∧
    doneOf (exec .reset (engine { demo 4 with hasRst := false } 0x08#8 [])) = some [.ok] := by decide
/-- Vector I3. -/
theorem test_init :
    traceOf (exec .init (engine (demo 4) 0x08#8 (List.replicate 7 .ok))) =
      some [.tx ⟨.param, some 0x01#8, []⟩ .ok, .delay 120, .tx ⟨.param, some 0x11#8, []⟩ .ok, .delay 20,
        .tx ⟨.param, some 0xB0#8, [0x00#8]⟩ .ok, .tx ⟨.param, some 0xE0#8, [0x01#8, 0x02#8, 0x03#8]⟩ .ok,
        .tx ⟨.param, some 0x3A#8, [0x66#8]⟩ .ok, .tx ⟨.param, some 0x36#8, [0x08#8]⟩ .ok,
        .tx ⟨.param, some 0x29#8, []⟩ .ok, .delay 20] := by decide
/-- Vector I9: the sixth transaction fails. -/
theorem test_init_fails_at_six :
    doneOf (exec .init (engine (demo 4) 0x08#8 (List.replicate 5 .ok ++ [.fail]))) =
      some [.transportFailure (some 0x36#8) 6] := by decide
/-- Vector B2: gaps 35 and 53, N equal to the capacity. -/
theorem test_draw :
    traceOf (exec (.draw 0#16 0#16 2#16 2#16 [0xF800#16, 0x07E0#16, 0x001F#16, 0xFFFF#16])
      (engine { demo 4 with xGap := 35#16, yGap := 53#16 } 0x08#8 (List.replicate 4 .ok))) =
      some [.tx ⟨.color, some 0x2A#8, [0#8, 0#8, 0#8, 0x23#8, 0#8, 0#8, 0#8, 0x24#8]⟩ .ok,
        .tx ⟨.color, some 0x2B#8, [0#8, 0#8, 0#8, 0x35#8, 0#8, 0#8, 0#8, 0x36#8]⟩ .ok,
        .tx ⟨.param, some 0x2C#8, []⟩ .ok,
        .tx ⟨.color, none, [0xF8#8, 0#8, 0#8, 0#8, 0xFC#8, 0#8, 0#8, 0#8, 0xF8#8, 0xF8#8, 0xFC#8, 0xF8#8]⟩ .ok] := by
  decide
/-- Vector B13: the payload fails. -/
theorem test_draw_payload_fails :
    doneOf (exec (.draw 0#16 0#16 1#16 1#16 [0#16]) (engine (demo 1) 0x08#8 [.ok, .ok, .ok, .fail])) =
      some [.transportFailure none 4] := by decide
/-- Vectors O5, O15. -/
theorem test_setMirror :
    modeOf (exec (.setMirror true false) (engine (demo 4) 0xC8#8 [.ok])) = some 0x48#8 ∧
    modeOf (exec (.setMirror true true) (engine (demo 4) 0x08#8 [.fail])) = some 0x08#8 := by decide
/-- Vector O6: bit 5 is kept and sent. -/
theorem test_setMirror_sends :
    traceOf (exec (.setMirror false true) (engine (demo 4) 0x28#8 [.ok])) =
      some [.tx ⟨.param, some 0x36#8, [0xA8#8]⟩ .ok] := by decide
/-- Vectors O9, O14. -/
theorem test_setSwapAxes :
    modeOf (exec (.setSwapAxes true) (engine (demo 4) 0xC8#8 [.ok])) = some 0xE8#8 ∧
    modeOf (exec (.setSwapAxes true) (engine (demo 4) 0x48#8 [.fail])) = some 0x48#8 := by decide
/-- Vector O14: the transmitted byte of a failed request is the new value. -/
theorem test_setSwapAxes_sends :
    traceOf (exec (.setSwapAxes true) (engine (demo 4) 0x48#8 [.fail])) =
      some [.tx ⟨.param, some 0x36#8, [0x68#8]⟩ .fail] := by decide
/-- Vectors A2, A3. -/
theorem test_invertColor :
    traceOf (exec (.invertColor false) (engine (demo 4) 0x08#8 [.ok])) = some [.tx ⟨.param, some 0x20#8, []⟩ .ok] ∧
    doneOf (exec (.invertColor true) (engine (demo 4) 0x08#8 [.fail])) = some [.transportFailure (some 0x21#8) 1] := by
  decide
/-- Vectors A5, A7. -/
theorem test_displayPower :
    traceOf (exec (.displayPower true) (engine (demo 4) 0x08#8 [.ok])) = some [.tx ⟨.param, some 0x29#8, []⟩ .ok] ∧
    doneOf (exec (.displayPower false) (engine (demo 4) 0x08#8 [.fail])) = some [.transportFailure (some 0x28#8) 1] := by
  decide

/-- Vectors B14, B15, B16, B17: what a DRAW outside the domain gets. -/
theorem test_draw_refused :
    refusal? (exec (.draw 5#16 5#16 5#16 6#16 []) (engine (demo 4) 0x08#8 [])) = some .emptyRectangle ∧
    refusal? (exec (.draw 6#16 5#16 5#16 6#16 [0#16]) (engine (demo 4) 0x08#8 [])) = some .emptyRectangle ∧
    refusal? (exec (.draw 65534#16 0#16 65535#16 1#16 [0#16]) (engine { demo 4 with xGap := 2#16 } 0x08#8 [])) =
      some .coordinateOverflow ∧
    refusal? (exec (.draw 0#16 0#16 2#16 1#16 [0#16]) (engine (demo 2) 0x08#8 [])) = some .pixelCountMismatch := by decide
/-- Vector B18: the pixel count does not wrap. -/
theorem test_pixelCount_no_wrap : pixelCount 0#16 0#16 65535#16 65535#16 = 4294836225 := by decide
/-- R98: the numeric codes. -/
theorem test_completion_codes :
    [Completion.ok, .invalidArgument, .outOfMemory, .transportFailure none 1, .sizeLimitExceeded].map completionCode =
      [0, 1, 2, 3, 4] := by decide

/-! ## Wire rows: each sends its transaction (R80) -/

/-- The state of an INIT that waits for the answer to the transaction `t` of phase `p`, nothing being left after it. -/
def waiting (t : Txn) (p : Nat) (as : List Answer) : State :=
  { engine (demo 4) 0x08#8 as with current := some ⟨.init, p, t, []⟩ }

/-- The events a wire row adds, alone on an idle engine. -/
def sends (i : Instr) : Option (List Event) := traceOf (exec i (engine (demo 4) 0x08#8 [.ok]))

theorem test_swreset : sends .swreset = some [.tx ⟨.param, some 0x01#8, []⟩ .ok] := by decide
theorem test_slpout : sends .slpout = some [.tx ⟨.param, some 0x11#8, []⟩ .ok] := by decide
theorem test_invoff : sends .invoff = some [.tx ⟨.param, some 0x20#8, []⟩ .ok] := by decide
theorem test_invon : sends .invon = some [.tx ⟨.param, some 0x21#8, []⟩ .ok] := by decide
theorem test_dispoff : sends .dispoff = some [.tx ⟨.param, some 0x28#8, []⟩ .ok] := by decide
theorem test_dispon : sends .dispon = some [.tx ⟨.param, some 0x29#8, []⟩ .ok] := by decide
theorem test_caset :
    sends (.caset 0#16 319#16) = some [.tx ⟨.color, some 0x2A#8, [0#8, 0#8, 0#8, 0#8, 0#8, 1#8, 0#8, 0x3F#8]⟩ .ok] := by decide
theorem test_raset :
    sends (.raset 0#16 479#16) = some [.tx ⟨.color, some 0x2B#8, [0#8, 0#8, 0#8, 0#8, 0#8, 1#8, 0#8, 0xDF#8]⟩ .ok] := by decide
theorem test_ramwr : sends .ramwr = some [.tx ⟨.param, some 0x2C#8, []⟩ .ok] := by decide
theorem test_madctl : sends (.madctl 0x48#8) = some [.tx ⟨.param, some 0x36#8, [0x48#8]⟩ .ok] := by decide
theorem test_pixfmt : sends .pixfmt = some [.tx ⟨.param, some 0x3A#8, [0x66#8]⟩ .ok] := by decide
theorem test_vendor :
    sends (.vendorB0 [1#8]) = some [.tx ⟨.param, some 0xB0#8, [1#8]⟩ .ok] ∧
    sends (.vendorB1 [1#8]) = some [.tx ⟨.param, some 0xB1#8, [1#8]⟩ .ok] ∧
    sends (.vendorB4 [1#8]) = some [.tx ⟨.param, some 0xB4#8, [1#8]⟩ .ok] ∧
    sends (.vendorB6 [1#8]) = some [.tx ⟨.param, some 0xB6#8, [1#8]⟩ .ok] ∧
    sends (.vendorB7 [1#8]) = some [.tx ⟨.param, some 0xB7#8, [1#8]⟩ .ok] ∧
    sends (.vendorC0 [1#8]) = some [.tx ⟨.param, some 0xC0#8, [1#8]⟩ .ok] ∧
    sends (.vendorC1 [1#8]) = some [.tx ⟨.param, some 0xC1#8, [1#8]⟩ .ok] ∧
    sends (.vendorC5 [1#8]) = some [.tx ⟨.param, some 0xC5#8, [1#8]⟩ .ok] ∧
    sends (.vendorE0 [1#8]) = some [.tx ⟨.param, some 0xE0#8, [1#8]⟩ .ok] ∧
    sends (.vendorE1 [1#8]) = some [.tx ⟨.param, some 0xE1#8, [1#8]⟩ .ok] := by decide
theorem test_payload : sends (.payload [0#8, 0#8, 0xF8#8]) = some [.tx ⟨.color, none, [0#8, 0#8, 0xF8#8]⟩ .ok] := by decide
/-- In an operation in progress OK completes its last transaction (R27). -/
theorem test_dispon_ends_init :
    doneOf (exec .dispon (waiting ⟨.param, some 0x29#8, []⟩ 7 [.ok])) = some [.ok] := by decide
/-- A placed table word is the next to run. -/
theorem test_withFetchWord :
    traceOf (step ((engine (demo 4) 0x08#8 [.ok]).withFetchWord 8 0x31)) = some [.tx ⟨.param, some 0x36#8, [0x48#8]⟩ .ok] := by
  decide

/-! ## Witnesses: states and operands that meet the hypotheses of each obligation -/

/-- The configuration of vector B6: `x_end + X_GAP` is exactly 65536. -/
def edge (cap : BitVec 32) : Configuration := { demo cap with xGap := 1#16 }

/-- An idle engine of which the caller asks the request `f`. -/
def asked (f : ReqFrame) (as : List Answer) : State := { engine (demo 4) 0x08#8 as with caller := [.request f] }

/-- Every engine of these tests is idle, whatever its configuration, mode register and answers. -/
theorem idle_engine (cfg : Configuration) (m : Byte) (as : List Answer) : Idle (engine cfg m as) := ⟨rfl, rfl⟩

/-- The rectangle of vector B6 is valid, at the edge of the domain. -/
theorem witness_DrawValid (cap : BitVec 32) : DrawValid (edge cap) 65534#16 65534#16 65535#16 65535#16 [0x001F#16] :=
  ⟨by decide, by decide, by simp [edge, demo], by simp [edge, demo], by decide⟩

theorem witness_RoundTripOfEveryInstruction :
    (Instr.draw 65534#16 65534#16 65535#16 65535#16 [0x001F#16]).wellFormed = true ∧
    (Instr.caset 0xFFFF#16 0xFFFF#16).wellFormed = true ∧ (Instr.payload [0xF8#8, 0xFC#8, 0xF8#8]).wellFormed = true := by
  decide

theorem witness_DecodedFramesReencode : decode (.req ⟨0x33#8, []⟩) = .ok (.setMirror true true) := by decide

theorem witness_ReservedHeadersAreRefused :
    (Idle (asked ⟨0x62#8, []⟩ []) ∧ (asked ⟨0x62#8, []⟩ []).caller = .request ⟨0x62#8, []⟩ :: [] ∧ 0x62#8 ∉ requestHeaders) ∧
    (Idle (asked ⟨0xFF#8, []⟩ []) ∧ (asked ⟨0xFF#8, []⟩ []).caller = .request ⟨0xFF#8, []⟩ :: [] ∧ 0xFF#8 ∉ requestHeaders) := by
  decide

theorem witness_CoordinateBlockLayout : coord8 0xFFFF#16 0xFFFF#16 = coord8 (0#16 - 1#16) 0xFFFF#16 := by decide

theorem witness_PixelsStandInInputOrder :
    [0#16, 0xFFFF#16][1]? = some 0xFFFF#16 ∧ 2 < 3 ∧ 3 * [0#16, 0xFFFF#16].length ≤ 6 := by decide

theorem witness_WindowOfAValidDraw : DrawValid (edge 1) 65534#16 65534#16 65535#16 65535#16 [0x001F#16] := witness_DrawValid 1

theorem witness_PixelCountOfAValidDraw : DrawValid (edge 0) 65534#16 65534#16 65535#16 65535#16 [0x001F#16] :=
  witness_DrawValid 0

theorem witness_ResetPulsesTheLine : Idle (engine (demo 4) 0xE8#8 []) ∧ (engine (demo 4) 0xE8#8 []).cfg.hasRst = true := by decide

theorem witness_ResetWithoutALine :
    Idle (engine { demo 4 with hasRst := false } 0x08#8 []) ∧
    (engine { demo 4 with hasRst := false } 0x08#8 []).cfg.hasRst = false := by decide

theorem witness_ResetChangesNoEngineState : Idle (engine (demo 4) 0xE8#8 [.fail]) := by decide

/-- All seven OK, and the last of the seven failing. -/
theorem witness_InitRunsItsTable :
    (Idle (engine (demo 4) 0x08#8 (List.replicate 7 .ok)) ∧
      (engine (demo 4) 0x08#8 (List.replicate 7 .ok)).answers = List.replicate (5 + (demo 4).vendorTable.length) .ok ++ []) ∧
    Idle (engine (demo 4) 0x08#8 (List.replicate 6 .ok ++ [.fail])) ∧
    (initTable (demo 4) 0x08#8)[6]? = some (⟨.param, some 0x29#8, []⟩, some 20) ∧
    (engine (demo 4) 0x08#8 (List.replicate 6 .ok ++ [.fail])).answers = List.replicate 6 .ok ++ .fail :: [] := by decide

theorem witness_InitWaitsForAnAnswer :
    (Idle (engine (demo 4) 0x08#8 []) ∧ (engine (demo 4) 0x08#8 []).answers = List.replicate 0 .ok ∧
      (initTable (demo 4) 0x08#8)[0]? = some (⟨.param, some 0x01#8, []⟩, some 120)) ∧
    (Idle (engine (demo 4) 0x08#8 (List.replicate 6 .ok)) ∧
      (engine (demo 4) 0x08#8 (List.replicate 6 .ok)).answers = List.replicate 6 .ok ∧
      (initTable (demo 4) 0x08#8)[6]? = some (⟨.param, some 0x29#8, []⟩, some 20)) := by decide

theorem witness_InitOrderWhateverTheEnvironment :
    (∃ t, Idle (engine (demo 4) 0x08#8 [.ok, .fail]) ∧ exec .init (engine (demo 4) 0x08#8 [.ok, .fail]) = .next t) ∧
    Idle (engine (edge 0) 0x08#8 [.ok, .fail]) ∧ (demo 4).vendorTable = (edge 0).vendorTable ∧
    (engine (demo 4) 0x08#8 [.ok, .fail]).madctl = (engine (edge 0) 0x08#8 [.ok, .fail]).madctl ∧
    (engine (demo 4) 0x08#8 [.ok, .fail]).answers = (engine (edge 0) 0x08#8 [.ok, .fail]).answers :=
  ⟨⟨_, by decide, rfl⟩, by decide, by decide, by decide, by decide⟩

/-- The hypotheses that the DRAW statements share. -/
def DrawHypotheses (s : State) (xs ys xe ye cs ce rs re : Half) (px : List Half) : Prop :=
  Idle s ∧ DrawValid s.cfg xs ys xe ye px ∧ px.length ≤ s.cfg.capPixels.toNat ∧
  cs.toNat = xs.toNat + s.cfg.xGap.toNat ∧ ce.toNat + 1 = xe.toNat + s.cfg.xGap.toNat ∧
  rs.toNat = ys.toNat + s.cfg.yGap.toNat ∧ re.toNat + 1 = ye.toNat + s.cfg.yGap.toNat

/-- They are met at the largest coordinates, with N equal to the capacity, whatever the answers. -/
theorem witness_draw_operands (as : List Answer) :
    DrawHypotheses (engine (edge 1) 0x08#8 as) 65534#16 65534#16 65535#16 65535#16 0xFFFF#16 0xFFFF#16 0xFFFE#16 0xFFFE#16
      [0x001F#16] :=
  ⟨⟨rfl, rfl⟩, witness_DrawValid 1, by show 1 ≤ (1#32).toNat; decide, rfl, rfl, rfl, rfl⟩

theorem witness_ValidDrawSendsFourTransactions :
    DrawHypotheses (engine (edge 1) 0x08#8 (List.replicate 4 .ok)) 65534#16 65534#16 65535#16 65535#16
      0xFFFF#16 0xFFFF#16 0xFFFE#16 0xFFFE#16 [0x001F#16] ∧
    (engine (edge 1) 0x08#8 (List.replicate 4 .ok)).answers = .ok :: .ok :: .ok :: .ok :: [] :=
  ⟨witness_draw_operands _, rfl⟩

/-- The four transactions of the DRAW of vector B6. -/
def edgeTxns : List Txn :=
  [⟨.color, some 0x2A#8, coord8 0xFFFF#16 0xFFFF#16⟩, ⟨.color, some 0x2B#8, coord8 0xFFFE#16 0xFFFE#16⟩,
   ⟨.param, some 0x2C#8, []⟩, ⟨.color, none, [0x001F#16].flatMap conv⟩]

/-- The first and the last transaction failing; and a DRAW that has ended. -/
theorem witness_DrawStopsAtTheFirstFailure :
    (DrawHypotheses (engine (edge 1) 0x08#8 [.fail]) 65534#16 65534#16 65535#16 65535#16
        0xFFFF#16 0xFFFF#16 0xFFFE#16 0xFFFE#16 [0x001F#16] ∧
      edgeTxns[0]? = some ⟨.color, some 0x2A#8, coord8 0xFFFF#16 0xFFFF#16⟩ ∧
      (engine (edge 1) 0x08#8 [.fail]).answers = List.replicate 0 .ok ++ .fail :: []) ∧
    (DrawHypotheses (engine (edge 1) 0x08#8 [.ok, .ok, .ok, .fail]) 65534#16 65534#16 65535#16 65535#16
        0xFFFF#16 0xFFFF#16 0xFFFE#16 0xFFFE#16 [0x001F#16] ∧
      edgeTxns[3]? = some ⟨.color, none, [0x001F#16].flatMap conv⟩ ∧
      (engine (edge 1) 0x08#8 [.ok, .ok, .ok, .fail]).answers = List.replicate 3 .ok ++ .fail :: []) ∧
    ∃ t, exec (.draw 65534#16 65534#16 65535#16 65535#16 [0x001F#16]) (engine (edge 1) 0x08#8 [.ok, .ok, .ok, .fail]) =
      .next t ∧ t.current = none :=
  ⟨⟨witness_draw_operands _, rfl, rfl⟩, ⟨witness_draw_operands _, rfl, rfl⟩, _, rfl, rfl⟩

theorem witness_DrawWaitsForAnAnswer :
    (DrawHypotheses (engine (edge 1) 0x08#8 []) 65534#16 65534#16 65535#16 65535#16
        0xFFFF#16 0xFFFF#16 0xFFFE#16 0xFFFE#16 [0x001F#16] ∧
      edgeTxns[0]? = some ⟨.color, some 0x2A#8, coord8 0xFFFF#16 0xFFFF#16⟩ ∧
      (engine (edge 1) 0x08#8 []).answers = List.replicate 0 .ok) ∧
    (DrawHypotheses (engine (edge 1) 0x08#8 [.ok, .ok, .ok]) 65534#16 65534#16 65535#16 65535#16
        0xFFFF#16 0xFFFF#16 0xFFFE#16 0xFFFE#16 [0x001F#16] ∧
      edgeTxns[3]? = some ⟨.color, none, [0x001F#16].flatMap conv⟩ ∧
      (engine (edge 1) 0x08#8 [.ok, .ok, .ok]).answers = List.replicate 3 .ok) :=
  ⟨⟨witness_draw_operands _, rfl, rfl⟩, witness_draw_operands _, rfl, rfl⟩

/-- One pixel more than the capacity, and exactly the capacity. -/
theorem witness_OverCapacityDrawIsTurnedAway :
    (Idle (engine (edge 0) 0x08#8 []) ∧ DrawValid (edge 0) 65534#16 65534#16 65535#16 65535#16 [0x001F#16] ∧
      (edge 0).capPixels.toNat < ((65535#16).toNat - (65534#16).toNat) * ((65535#16).toNat - (65534#16).toNat)) ∧
    (DrawValid (edge 1) 65534#16 65534#16 65535#16 65535#16 [0x001F#16] ∧
      ((65535#16).toNat - (65534#16).toNat) * ((65535#16).toNat - (65534#16).toNat) = (edge 1).capPixels.toNat ∧
      (engine (edge 1) 0x08#8 (List.replicate 4 .ok)).answers = .ok :: .ok :: .ok :: .ok :: []) :=
  ⟨⟨by decide, witness_DrawValid 0, by decide⟩, witness_DrawValid 1, by decide, by decide⟩

theorem witness_InvalidDrawIsRefused :
    Idle (engine (demo 4) 0x08#8 []) ∧ ¬DrawValid (demo 4) 5#16 5#16 5#16 6#16 [] :=
  ⟨by decide, fun h => absurd h.columns (by decide)⟩

/-- Each clause one past the edge: an empty width, an end plus gap of 65537, one pixel missing. -/
theorem witness_InvalidDrawNamesItsCondition :
    (Idle (engine (edge 4) 0x08#8 []) ∧ ¬((5#16).toNat < (5#16).toNat ∧ (5#16).toNat < (6#16).toNat)) ∧
    (Idle (engine { demo 4 with xGap := 2#16 } 0x08#8 []) ∧
      ((65534#16).toNat < (65535#16).toNat ∧ (0#16).toNat < (1#16).toNat) ∧
      65536 < (65535#16).toNat + (engine { demo 4 with xGap := 2#16 } 0x08#8 []).cfg.xGap.toNat) ∧
    (Idle (engine (edge 4) 0x08#8 []) ∧ ((65533#16).toNat < (65535#16).toNat ∧ (0#16).toNat < (1#16).toNat) ∧
      (65535#16).toNat + (engine (edge 4) 0x08#8 []).cfg.xGap.toNat ≤ 65536 ∧
      (1#16).toNat + (engine (edge 4) 0x08#8 []).cfg.yGap.toNat ≤ 65536 ∧
      [0#16].length ≠ ((65535#16).toNat - (65533#16).toNat) * ((1#16).toNat - (0#16).toNat)) := by decide

/-- An INIT, a DRAW ended each way, and another request. -/
theorem witness_GhostStateAtTheEndOfARequest :
    (∀ as, Idle (engine (demo 4) 0x08#8 as)) ∧ (∀ cap as, Idle (engine (edge cap) 0x08#8 as)) ∧
    (isRequest .init = true ∧ doneOf (exec .init (engine (demo 4) 0x08#8 [.fail])) = some [.transportFailure (some 0x01#8) 1]) ∧
    doneOf (exec (.draw 65534#16 65534#16 65535#16 65535#16 [0#16]) (engine (edge 1) 0x08#8 (List.replicate 4 .ok))) =
      some [.ok] ∧
    doneOf (exec (.draw 65534#16 65534#16 65535#16 65535#16 [0#16]) (engine (edge 0) 0x08#8 [])) =
      some [.sizeLimitExceeded] ∧
    doneOf (exec (.draw 65534#16 65534#16 65535#16 65535#16 [0#16]) (engine (edge 1) 0x08#8 [.fail])) =
      some [.transportFailure (some 0x2A#8) 1] ∧
    doneOf (exec .reset (engine (demo 4) 0x08#8 [])) = some [.ok] :=
  ⟨fun _ => idle_engine _ _ _, fun _ _ => idle_engine _ _ _, by decide⟩

theorem witness_DrawIgnoresModeAndHistory :
    ∃ t, Idle (engine (edge 1) 0x08#8 [.ok]) ∧
      Idle ({ engine (edge 1) 0xFF#8 [.ok] with completions := [.sizeLimitExceeded] } : State) ∧
      (engine (edge 1) 0x08#8 [.ok]).cfg = (engine (edge 1) 0xFF#8 [.ok]).cfg ∧
      (engine (edge 1) 0x08#8 [.ok]).answers = (engine (edge 1) 0xFF#8 [.ok]).answers ∧
      exec (.draw 65534#16 65534#16 65535#16 65535#16 [0x001F#16]) (engine (edge 1) 0x08#8 [.ok]) = .next t :=
  ⟨_, by decide, by decide, rfl, rfl, rfl⟩

theorem witness_SetMirrorWritesItsTwoBits :
    Idle (engine (demo 4) 0x28#8 [.ok]) ∧ Idle (engine (demo 4) 0x28#8 [.fail]) ∧ (0xA8#8).getLsbD 7 = true ∧ (0xA8#8).getLsbD 6 = false ∧
    (∀ i < 6, (0xA8#8).getLsbD i = (0x28#8).getLsbD i) ∧ (engine (demo 4) 0x28#8 [.ok]).answers = .ok :: [] ∧
    (engine (demo 4) 0x28#8 [.fail]).answers = .fail :: [] := by decide

theorem witness_SetSwapAxesWritesItsBit :
    Idle (engine (demo 4) 0xC8#8 [.ok]) ∧ Idle (engine (demo 4) 0xC8#8 [.fail]) ∧ (0xE8#8).getLsbD 5 = true ∧
    (∀ i < 8, i ≠ 5 → (0xE8#8).getLsbD i = (0xC8#8).getLsbD i) ∧ (engine (demo 4) 0xC8#8 [.ok]).answers = .ok :: [] ∧
    (engine (demo 4) 0xC8#8 [.fail]).answers = .fail :: [] := by decide

theorem witness_FailedModeTransmissionRollsBack :
    ∃ t, Idle (engine (demo 4) 0x48#8 [.fail]) ∧ exec (.setSwapAxes true) (engine (demo 4) 0x48#8 [.fail]) = .next t ∧
      t.current = none ∧ t.completions = (engine (demo 4) 0x48#8 [.fail]).completions ++ [.transportFailure (some 0x36#8) 1] :=
  ⟨_, by decide, rfl, rfl, rfl⟩

theorem witness_OrientationRequestsCommute :
    Idle (engine (demo 4) 0xE8#8 [.ok, .ok]) ∧ (engine (demo 4) 0xE8#8 [.ok, .ok]).answers = .ok :: .ok :: [] ∧
    fixedBits (engine (demo 4) 0xE8#8 [.ok, .ok]).madctl = fixedBits (demo 4).madctlDefault := by decide

theorem witness_InvertColorPassesThrough :
    Idle (engine (demo 4) 0x08#8 [.ok]) ∧ Idle (engine (demo 4) 0x08#8 [.fail]) ∧ 0x20#8 = (if false then 0x21#8 else 0x20#8) ∧
    (engine (demo 4) 0x08#8 [.ok]).answers = .ok :: [] ∧ (engine (demo 4) 0x08#8 [.fail]).answers = .fail :: [] := by decide

theorem witness_DisplayPowerPassesThrough :
    Idle (engine (demo 4) 0x08#8 [.ok]) ∧ Idle (engine (demo 4) 0x08#8 [.fail]) ∧ 0x29#8 = (if true then 0x29#8 else 0x28#8) ∧
    (engine (demo 4) 0x08#8 [.ok]).answers = .ok :: [] ∧ (engine (demo 4) 0x08#8 [.fail]).answers = .fail :: [] := by decide

theorem witness_OneTransactionRequestsWait : Idle (engine (demo 4) 0x08#8 []) ∧ (engine (demo 4) 0x08#8 []).answers = [] := by decide

theorem witness_WireRowsSendTheirTransaction :
    (Idle (engine (demo 4) 0x08#8 [.ok]) ∧ (engine (demo 4) 0x08#8 [.ok]).answers = .ok :: []) ∧
    (Idle (engine (demo 4) 0x08#8 [.fail]) ∧ (engine (demo 4) 0x08#8 [.fail]).answers = .fail :: []) ∧
    ∃ sent : Txn → State, ∀ u, sent u =
      { engine (demo 4) 0x08#8 [.ok] with answers := [], trace := (engine (demo 4) 0x08#8 [.ok]).trace ++ [.tx u .ok] } :=
  ⟨by decide, by decide, _, fun _ => rfl⟩

theorem witness_FailEndsTheOperationInProgress :
    encode .dispon = .txn ⟨.param, some 0x29#8, []⟩ ∧ (waiting ⟨.param, some 0x29#8, []⟩ 7 [.fail]).alive = true ∧
    (waiting ⟨.param, some 0x29#8, []⟩ 7 [.fail]).current = some ⟨.init, 7, ⟨.param, some 0x29#8, []⟩, []⟩ ∧
    OpKind.init ≠ .bare ∧ (waiting ⟨.param, some 0x29#8, []⟩ 7 [.fail]).answers = .fail :: [] := by decide

/-- An INIT at phase 5 of 7, with a transaction left. -/
def pixfmtWaiting : State :=
  { engine (demo 4) 0x08#8 [.ok] with
    current := some ⟨.init, 5, ⟨.param, some 0x3A#8, [0x66#8]⟩, [.tx ⟨.param, some 0x36#8, [0x08#8]⟩]⟩ }

/-- An INIT with a transaction left, and one with none. -/
theorem witness_OkAdvancesThePhaseByOne :
    (encode .pixfmt = .txn ⟨.param, some 0x3A#8, [0x66#8]⟩ ∧ pixfmtWaiting.alive = true ∧
      pixfmtWaiting.current = some ⟨.init, 5, ⟨.param, some 0x3A#8, [0x66#8]⟩, [.tx ⟨.param, some 0x36#8, [0x08#8]⟩]⟩ ∧
      pixfmtWaiting.answers = [.ok] ∧
      (⟨.init, 5, ⟨.param, some 0x3A#8, [0x66#8]⟩, [.tx ⟨.param, some 0x36#8, [0x08#8]⟩]⟩ : Operation).rest =
        .tx ⟨.param, some 0x36#8, [0x08#8]⟩ :: []) ∧
    (encode .dispon = .txn ⟨.param, some 0x29#8, []⟩ ∧ (waiting ⟨.param, some 0x29#8, []⟩ 7 [.ok]).alive = true ∧
      (waiting ⟨.param, some 0x29#8, []⟩ 7 [.ok]).current = some ⟨.init, 7, ⟨.param, some 0x29#8, []⟩, []⟩ ∧
      (waiting ⟨.param, some 0x29#8, []⟩ 7 [.ok]).answers = [.ok] ∧
      (⟨.init, 7, ⟨.param, some 0x29#8, []⟩, []⟩ : Operation).rest = [] ∧ OpKind.init ≠ .bare) := by decide

theorem witness_SilentTransportIsStuck :
    (waiting ⟨.param, some 0x29#8, []⟩ 7 []).alive = true ∧
    (waiting ⟨.param, some 0x29#8, []⟩ 7 []).current = some ⟨.init, 7, ⟨.param, some 0x29#8, []⟩, []⟩ ∧
    (waiting ⟨.param, some 0x29#8, []⟩ 7 []).answers = [] ∧ encode .dispon = .txn ⟨.param, some 0x29#8, []⟩ ∧
    decode (.txn ⟨.param, some 0x29#8, []⟩) = .ok .dispon := by decide

theorem witness_StepRunsTheRequestAsked :
    (asked ⟨0x41#8, []⟩ [.ok]).current = none ∧ (asked ⟨0x41#8, []⟩ [.ok]).caller = .request ⟨0x41#8, []⟩ :: [] ∧
    decode (.req ⟨0x41#8, []⟩) = .ok (.setSwapAxes true) := by decide

theorem witness_StepRunsTheOutstandingTransaction :
    (waiting ⟨.param, some 0x29#8, []⟩ 7 [.ok]).current = some ⟨.init, 7, ⟨.param, some 0x29#8, []⟩, []⟩ ∧
    decode (.txn ⟨.param, some 0x29#8, []⟩) = .ok .dispon := by decide

theorem witness_PlacedFrameRunsNext :
    decode (.req ⟨0x10#8, []⟩) = .ok .init ∧ decode (.txn ⟨.param, some 0x11#8, []⟩) = .ok .slpout := by decide

/-- An engine the caller destroys, and a destroyed one that is asked something. -/
theorem witness_TeardownEndsTheEngine :
    (Idle ({ engine (demo 4) 0x08#8 [] with caller := [.teardown] } : State) ∧
      ({ engine (demo 4) 0x08#8 [] with caller := [.teardown] } : State).caller = .teardown :: []) ∧
    (({ asked ⟨0x00#8, []⟩ [] with alive := false } : State).alive = false ∧
      ({ asked ⟨0x00#8, []⟩ [] with alive := false } : State).current = none ∧
      ({ asked ⟨0x00#8, []⟩ [] with alive := false } : State).caller = .request ⟨0x00#8, []⟩ :: []) := by decide

theorem witness_OneRequestAtATime :
    (isRequest .reset = true ∧ (waiting ⟨.param, some 0x29#8, []⟩ 7 []).alive = true ∧
      (waiting ⟨.param, some 0x29#8, []⟩ 7 []).current ≠ none) ∧
    Idle (engine (demo 4) 0x08#8 []) ∧ (engine (demo 4) 0x08#8 []).caller = [] := by decide

/-- A DRAW with one answer, carried on with a FAIL. -/
theorem witness_LateAnswersChangeNothing :
    ∃ t, isRequest (.draw 65534#16 65534#16 65535#16 65535#16 [0x001F#16]) = true ∧ Idle (engine (edge 1) 0x08#8 [.ok]) ∧
      exec (.draw 65534#16 65534#16 65535#16 65535#16 [0x001F#16]) (engine (edge 1) 0x08#8 [.ok]) = .next t ∧
      t.current ≠ none ∧ [Answer.fail] ≠ [] :=
  ⟨_, by decide, by decide, rfl, nofun, by decide⟩

/-- An engine asked a request meets the invariant. -/
theorem inv_asked (f : ReqFrame) (as : List Answer) : Inv (asked f as) where
  scratchCanonical := wf_nil
  scratchInCapacity := nofun
  scratchOnlyInDraw h := absurd rfl h
  modeFixedBits := rfl
  modeSynchronised _ := rfl
  inProgress := nofun

/-- A SET_MIRROR that waits for its answer. -/
def mirrorWaiting (as : List Answer) : State :=
  { engine (demo 4) 0x08#8 as with current := some ⟨.setMirror, 1, ⟨.param, some 0x36#8, [0x48#8]⟩, [.setMadctl 0x48#8]⟩ }

/-- A SET_MIRROR that waits for its answer meets the invariant. -/
theorem inv_mirrorWaiting (as : List Answer) : Inv (mirrorWaiting as) where
  scratchCanonical := wf_nil
  scratchInCapacity := nofun
  scratchOnlyInDraw h := absurd rfl h
  modeFixedBits := rfl
  modeSynchronised := nofun
  inProgress op h := by
    injection h with h
    subst h
    exact ⟨by decide, rfl, ⟨.madctl 0x48#8, by decide⟩, (by show fixedBits 0x48#8 = fixedBits 0x08#8; decide), rfl⟩

/-- A request that starts, and one in progress that goes on. -/
theorem witness_EveryStepKeepsTheInvariant :
    (∃ t, Inv (asked ⟨0x10#8, []⟩ [.ok, .fail]) ∧ step (asked ⟨0x10#8, []⟩ [.ok, .fail]) = .next t) ∧
    ∃ t, Inv (mirrorWaiting [.ok]) ∧ step (mirrorWaiting [.ok]) = .next t :=
  ⟨⟨_, inv_asked _ _, rfl⟩, _, inv_mirrorWaiting _, rfl⟩

theorem witness_ModeRegisterStaysSynchronised :
    ∃ t, Inv (mirrorWaiting [.ok]) ∧ step (mirrorWaiting [.ok]) = .next t ∧ t.current = none ∧ t.madctl = 0x48#8 :=
  ⟨_, inv_mirrorWaiting _, rfl, rfl, rfl⟩

theorem witness_FixedBitsAreNeverAltered : ∃ t, Inv (mirrorWaiting [.fail]) ∧ step (mirrorWaiting [.fail]) = .next t :=
  ⟨_, inv_mirrorWaiting _, rfl⟩

theorem witness_ConfigurationNeverChanges :
    (∃ t, exec .init (engine (demo 4) 0x08#8 [.fail]) = .next t) ∧ ∃ t, step (mirrorWaiting [.fail]) = .next t :=
  ⟨⟨_, rfl⟩, _, rfl⟩

theorem witness_OnlyOrientationRequestsWriteMadctl :
    ∃ t t' t'', Idle (engine (demo 4) 0x28#8 [.ok]) ∧ exec .init (engine (demo 4) 0x28#8 [.ok]) = .next t ∧
      exec (.setMirror true true) (engine (demo 4) 0x28#8 [.ok]) = .next t' ∧
      exec (.setSwapAxes false) (engine (demo 4) 0x28#8 [.ok]) = .next t'' :=
  ⟨_, _, _, by decide, rfl, rfl, rfl⟩

theorem witness_ErrorsLeaveMadctlAlone :
    ∃ t, isRequest (.setMirror true true) = true ∧ Idle (engine (demo 4) 0x08#8 [.fail]) ∧
      exec (.setMirror true true) (engine (demo 4) 0x08#8 [.fail]) = .next t ∧
      t.completions = (engine (demo 4) 0x08#8 [.fail]).completions ++ [.transportFailure (some 0x36#8) 1] ∧
      Completion.transportFailure (some 0x36#8) 1 ≠ .ok :=
  ⟨_, by decide, by decide, rfl, rfl, by decide⟩

theorem witness_TraceOnlyGrows : ∃ t, step (asked ⟨0x10#8, []⟩ [.ok, .fail]) = .next t := ⟨_, rfl⟩

/-- INIT failing at its second transaction. -/
theorem witness_NothingFollowsAFailedTransaction :
    ∃ t, isRequest .init = true ∧ Idle (engine (demo 4) 0x08#8 [.ok, .fail]) ∧
      exec .init (engine (demo 4) 0x08#8 [.ok, .fail]) = .next t ∧
      t.trace = (engine (demo 4) 0x08#8 [.ok, .fail]).trace ++ [.tx ⟨.param, some 0x01#8, []⟩ .ok, .delay 120] ++
        [.tx ⟨.param, some 0x11#8, []⟩ .fail] ++ [] :=
  ⟨_, by decide, by decide, rfl, rfl⟩

theorem witness_OneCompletionPerRequest :
    ∃ t t', isRequest .init = true ∧ Idle (engine (demo 4) 0x08#8 [.ok]) ∧ exec .init (engine (demo 4) 0x08#8 [.ok]) = .next t ∧
      t.current ≠ none ∧ exec .init (engine (demo 4) 0x08#8 [.fail]) = .next t' ∧ t'.current = none :=
  ⟨_, _, by decide, by decide, rfl, nofun, rfl, rfl⟩

theorem witness_OneAnswerPerTransaction :
    ∃ t, isRequest .init = true ∧ Idle (engine (demo 4) 0x08#8 [.ok, .fail, .ok]) ∧
      exec .init (engine (demo 4) 0x08#8 [.ok, .fail, .ok]) = .next t ∧ t.answers = [.ok] :=
  ⟨_, by decide, by decide, rfl, rfl⟩

/-- A wire row on its own, and one ended request of each kind. -/
theorem witness_CompletionsARequestCanHave :
    Idle (engine (demo 4) 0x08#8 [.fail]) ∧ Idle (engine (demo 4) 0x08#8 [.ok, .ok, .ok, .fail]) ∧
    (isRequest .ramwr = false ∧ doneOf (exec .ramwr (engine (demo 4) 0x08#8 [.fail])) = some []) ∧
    doneOf (exec .reset (engine (demo 4) 0x08#8 [.fail])) = some [.ok] ∧
    doneOf (exec .init (engine (demo 4) 0x08#8 [.fail])) = some [.transportFailure (some 0x01#8) 1] ∧
    doneOf (exec (.setMirror true true) (engine (demo 4) 0x08#8 [.fail])) = some [.transportFailure (some 0x36#8) 1] ∧
    doneOf (exec (.setSwapAxes true) (engine (demo 4) 0x08#8 [.fail])) = some [.transportFailure (some 0x36#8) 1] ∧
    doneOf (exec (.invertColor true) (engine (demo 4) 0x08#8 [.fail])) = some [.transportFailure (some 0x21#8) 1] ∧
    doneOf (exec (.displayPower false) (engine (demo 4) 0x08#8 [.fail])) = some [.transportFailure (some 0x28#8) 1] ∧
    doneOf (exec (.draw 0#16 0#16 1#16 1#16 [0#16]) (engine (demo 4) 0x08#8 [.ok, .ok, .ok, .fail])) =
      some [.transportFailure none 4] := by decide

theorem witness_OnlyCommandsOfTheMapAreEmitted :
    ∃ t, Inv (mirrorWaiting [.ok]) ∧ step (mirrorWaiting [.ok]) = .next t ∧
      t.trace = (mirrorWaiting [.ok]).trace ++ [.tx ⟨.param, some 0x36#8, [0x48#8]⟩ .ok] ∧
      Event.tx ⟨.param, some 0x36#8, [0x48#8]⟩ .ok ∈ [Event.tx ⟨.param, some 0x36#8, [0x48#8]⟩ .ok] :=
  ⟨_, inv_mirrorWaiting _, rfl, rfl, by decide⟩

end Sys2Proof.Tests
end

/-! PROOFS. The fixed bits of the mode register (spec 10_state.md R24): what a request starts, what running its steps can do
to MADCTL, and that no step of the machine alters bits 4:0. -/

namespace Sys2Proof.Machine

/-! ## What a request starts -/

/-- Request `i` on state `s` starts operation `k` with the steps `acts`. -/
inductive Starts (s : State) : Instr → OpKind → List Action → Prop where
  | reset : Starts s .reset .reset (resetScript s.cfg)
  | init : Starts s .init .init (initScript s.cfg s.madctl)
  | draw {xs ys xe ye : Half} {px : List Half} (valid : drawRefusal s.cfg xs ys xe ye px = none)
      (fits : pixelCount xs ys xe ye ≤ s.cfg.capPixels.toNat) :
      Starts s (.draw xs ys xe ye px) .draw (drawScript s.cfg xs ys xe ye px)
  | setMirror (x y : Bool) : Starts s (.setMirror x y) .setMirror (modeScript (withMirror s.madctl x y))
  | setSwapAxes (sw : Bool) : Starts s (.setSwapAxes sw) .setSwapAxes (modeScript (withSwap s.madctl sw))
  | invertColor (on : Bool) :
      Starts s (.invertColor on) .invertColor [.tx (wireTxn (if on then .invon else .invoff) [])]
  | displayPower (on : Bool) :
      Starts s (.displayPower on) .displayPower [.tx (wireTxn (if on then .dispon else .dispoff) [])]

/-- Request `i` is a valid DRAW of more pixels than CONV_BUF has room for (R154). -/
def OverCapacity (s : State) (i : Instr) : Prop :=
  ∃ xs ys xe ye px, i = .draw xs ys xe ye px ∧ drawRefusal s.cfg xs ys xe ye px = none ∧
    s.cfg.capPixels.toNat < pixelCount xs ys xe ye

/-- An admitted DRAW is in the valid domain, and is over the capacity or starts its four transactions (R153, R154). -/
theorem execDraw_next {xs ys xe ye : Half} {px : List Half} {s t : State} (h : execDraw xs ys xe ye px s = .next t) :
    Idle s ∧ ((OverCapacity s (.draw xs ys xe ye px) ∧ t = sizeLimit s) ∨
      ∃ k acts, Starts s (.draw xs ys xe ye px) k acts ∧ t = run k 1 acts s) := by
  obtain ⟨ha, hc, hgo⟩ := guarded_next h
  refine ⟨⟨ha, hc⟩, ?_⟩
  split at hgo
  · cases hgo
  · rename_i hvalid
    injection hgo with ht
    split at ht
    · rename_i hover
      exact .inl ⟨⟨_, _, _, _, _, rfl, hvalid, hover⟩, ht.symm⟩
    · rename_i hfits
      exact .inr ⟨_, _, .draw hvalid (Nat.le_of_not_lt hfits), ht.symm⟩

/-- Everything a request can answer: it is admitted on an idle engine only, and is turned away over the capacity or runs the
steps it starts. -/
theorem exec_request_next {i : Instr} {s t : State} (hi : isRequest i = true) (h : exec i s = .next t) :
    Idle s ∧ ((OverCapacity s i ∧ t = sizeLimit s) ∨ ∃ k acts, Starts s i k acts ∧ t = run k 1 acts s) := by
  have runs {k : OpKind} {acts : List Action} (hs : Starts s i k acts)
      (h : guarded s (.next (run k 1 acts s)) = .next t) :
      Idle s ∧ ((OverCapacity s i ∧ t = sizeLimit s) ∨ ∃ k acts, Starts s i k acts ∧ t = run k 1 acts s) := by
    obtain ⟨ha, hc, hgo⟩ := guarded_next h
    injection hgo with ht
    exact ⟨⟨ha, hc⟩, .inr ⟨k, acts, hs, ht.symm⟩⟩
  cases i with
  | reset => exact runs .reset h
  | init => exact runs .init h
  | draw xs ys xe ye px => exact execDraw_next h
  | setMirror x y => exact runs (.setMirror x y) h
  | setSwapAxes sw => exact runs (.setSwapAxes sw) h
  | invertColor on => exact runs (.invertColor on) h
  | displayPower on => exact runs (.displayPower on) h
  | _ => cases hi

/-! ## What an operation does to MADCTL -/

/-- An operation leaves MADCTL as it was, or at a value one of its own steps writes (R23). -/
theorem run_madctl (k : OpKind) (p : Nat) (acts : List Action) (s : State) :
    (run k p acts s).madctl = s.madctl ∨ .setMadctl (run k p acts s).madctl ∈ acts := by
  induction acts generalizing p s with
  | nil => exact .inl (by simp)
  | cons a acts ih =>
    have htx (t : Txn) : (run k p (.tx t :: acts) s).madctl = s.madctl ∨
        .setMadctl (run k p (.tx t :: acts) s).madctl ∈ acts := by
      rw [run_tx]
      obtain ⟨-, e⟩ | ⟨as, -, e⟩ | ⟨as, -, e⟩ := attempt_cases k p t acts (run k (p + 1) acts) s
      · exact .inl (by simp [e])
      · rw [e]; simpa using ih (p + 1) (s.accepted t as)
      · exact .inl (by simp [e])
    cases a with
    | tx t => exact (htx t).imp_right (List.mem_cons_of_mem _)
    | txScratch n => rw [run_txScratch]; exact (htx _).imp_right (List.mem_cons_of_mem _)
    | rst l => exact (ih p (s.driveReset l)).imp_right (List.mem_cons_of_mem _)
    | delay ms => exact (ih p (s.emit (.delay ms))).imp_right (List.mem_cons_of_mem _)
    | convert px => exact (ih p (s.convertPixels px)).imp_right (List.mem_cons_of_mem _)
    | setMadctl m =>
      rw [run_setMadctl]
      obtain h | h := ih p { s with madctl := m }
      · exact .inr (by simp [h])
      · exact .inr (List.mem_cons_of_mem _ h)

/-! ## The fixed bits -/

/-- SET_MIRROR's update keeps bits 4:0 (R132). -/
@[simp] theorem fixedBits_withMirror (m : Byte) (x y : Bool) : fixedBits (withMirror m x y) = fixedBits m := by
  apply BitVec.eq_of_getLsbD_eq
  intro n hn
  have h6 : n < 6 := by omega
  rw [fixedBits, withMirror, BitVec.getLsbD_extractLsb', BitVec.getLsbD_append]
  simp [fixedBits, h6]

/-- SET_SWAP_AXES's update keeps bits 4:0 (R136). -/
@[simp] theorem fixedBits_withSwap (m : Byte) (sw : Bool) : fixedBits (withSwap m sw) = fixedBits m := by
  apply BitVec.eq_of_getLsbD_eq
  intro n hn
  rw [fixedBits, withSwap, BitVec.getLsbD_extractLsb', BitVec.getLsbD_append]
  simp [fixedBits, hn]

/-- Every value that a request's own steps write to MADCTL has the fixed bits of the MADCTL it found. -/
theorem Starts.fixedBits_written {s : State} {i : Instr} {k : OpKind} {acts : List Action} {m : Byte}
    (h : Starts s i k acts) (hm : .setMadctl m ∈ acts) : fixedBits m = fixedBits s.madctl := by
  cases h with
  | reset => unfold resetScript at hm; split at hm <;> simp at hm
  | init => simp [initScript] at hm
  | draw => simp [drawScript] at hm
  | setMirror x y =>
    obtain rfl : m = withMirror s.madctl x y := by simpa [modeScript] using hm
    simp
  | setSwapAxes sw =>
    obtain rfl : m = withSwap s.madctl sw := by simpa [modeScript] using hm
    simp
  | invertColor => simp at hm
  | displayPower => simp at hm

/-- Every value that sound steps write to MADCTL has the fixed bits of MADCTL_DEFAULT. -/
theorem Sound.fixedBits_written {c : Configuration} {k : OpKind} {sent held m : Byte} {buf : Memory} {acts : List Action}
    (h : Sound c k sent held buf acts) (hm : .setMadctl m ∈ acts) : fixedBits m = fixedBits c.madctlDefault := by
  induction acts generalizing sent held buf with
  | nil => cases hm
  | cons a acts ih =>
    obtain rfl | hacts := List.mem_cons.mp hm
    · exact h.1
    · cases a with
      | tx t => obtain ⟨-, -, hr⟩ := h; exact ih hr hacts
      | txScratch n => obtain ⟨-, -, hr⟩ := h; exact ih hr hacts
      | rst l => exact ih h hacts
      | delay ms => exact ih h hacts
      | convert px => obtain ⟨-, -, hr⟩ := h; exact ih hr hacts
      | setMadctl m' => obtain ⟨-, hr⟩ := h; exact ih hr hacts

/-- Bits 4:0 of MADCTL are those of MADCTL_DEFAULT (R24). -/
def HasDefaultFixedBits (s : State) : Prop := fixedBits s.madctl = fixedBits s.cfg.madctlDefault

/-- Running steps that write only values with the default fixed bits keeps the fixed bits. -/
theorem run_keeps_fixedBits {k : OpKind} {p : Nat} {acts : List Action} {s : State} (hs : HasDefaultFixedBits s)
    (hw : ∀ m, .setMadctl m ∈ acts → fixedBits m = fixedBits s.cfg.madctlDefault) :
    HasDefaultFixedBits (run k p acts s) := by
  unfold HasDefaultFixedBits
  rw [run_cfg]
  obtain h | h := run_madctl k p acts s
  · rw [h]; exact hs
  · exact hw _ h

/-- No instruction alters the fixed bits: a request writes only values made from the MADCTL it found, and a wire row only goes
on with the steps left of the operation in progress. -/
theorem exec_keeps_fixedBits {i : Instr} {s t : State} (hs : HasDefaultFixedBits s)
    (hrest : ∀ op m, s.current = some op → .setMadctl m ∈ op.rest → fixedBits m = fixedBits s.cfg.madctlDefault)
    (h : exec i s = .next t) : HasDefaultFixedBits t := by
  cases hi : isRequest i with
  | true =>
    obtain ⟨-, ⟨-, rfl⟩ | ⟨k, acts, hstart, rfl⟩⟩ := exec_request_next hi h
    · exact hs
    · exact run_keeps_fixedBits hs fun m hm => (hstart.fixedBits_written hm).trans hs
  | false =>
    obtain ⟨u, hu⟩ := encode_wire hi
    rw [exec_of_encode_txn hu] at h
    obtain ⟨-, ⟨-, rfl⟩ | ⟨op, hop, -, rfl⟩⟩ := transmit_next h
    · exact run_keeps_fixedBits hs (by simp)
    · exact run_keeps_fixedBits hs fun m hm => hrest op m hop (by simpa using hm)

/-- A step from a state that meets the invariant keeps the fixed bits. -/
theorem step_keeps_fixedBits {s t : State} (hinv : Inv s) (h : step s = .next t) : HasDefaultFixedBits t := by
  have hrest (op : Operation) (m : Byte) (hop : s.current = some op) (hm : .setMadctl m ∈ op.rest) :
      fixedBits m = fixedBits s.cfg.madctlDefault :=
    (hinv.inProgress op hop).2.fixedBits_written (List.mem_cons_of_mem _ hm)
  obtain ⟨op, i, -, -, hexec⟩ | ⟨-, -, rfl⟩ | ⟨f, more, i, -, -, -, hexec⟩ | ⟨more, -, -, -, rfl⟩ := step_next h
  · exact exec_keeps_fixedBits hinv.modeFixedBits hrest hexec
  · exact hinv.modeFixedBits
  · exact exec_keeps_fixedBits (s := { s with caller := more }) hinv.modeFixedBits hrest hexec
  · exact hinv.modeFixedBits

/-- Settles O44: the default itself stands in MADCTL at hardware reset, and every step from the invariant keeps its fixed
bits. -/
theorem fixedBitsAreNeverAltered : Obligations.FixedBitsAreNeverAltered :=
  ⟨fun _ => rfl, fun _ _ hinv h => step_keeps_fixedBits hinv h⟩

end Sys2Proof.Machine

/-! PROOFS. The coordinate block (spec 30_encoding.md R90): its eight bytes as numbers, and that they determine the two
coordinates. -/

namespace Sys2Proof.Machine

/-! ## The coordinate block -/

/-- The high byte of a 16-bit value, as a number. -/
theorem toNat_highByte (x : Half) : (x.extractLsb' 8 8).toNat = x.toNat / 256 := by
  have hlt := x.isLt
  rw [BitVec.extractLsb'_toNat, Nat.shiftRight_eq_div_pow]
  omega

/-- The low byte of a 16-bit value, as a number. -/
theorem toNat_lowByte (x : Half) : (x.extractLsb' 0 8).toNat = x.toNat % 256 := by
  rw [BitVec.extractLsb'_toNat, Nat.shiftRight_zero]

/-- The eight bytes of a coordinate block, as numbers (R90). -/
theorem map_toNat_coord8 (s e : Half) :
    (coord8 s e).map BitVec.toNat =
      [0, s.toNat / 256, 0, s.toNat % 256, 0, e.toNat / 256, 0, e.toNat % 256] := by
  simp only [coord8, List.map_cons, List.map_nil, toNat_highByte, toNat_lowByte, BitVec.toNat_ofNat, Nat.zero_mod]

/-- Equal coordinate blocks have equal coordinates: reading the block back gives them. -/
theorem coord8_inj {s e s' e' : Half} (h : coord8 s' e' = coord8 s e) : s' = s ∧ e' = e := by
  have hread : some (s', e') = some (s, e) := by
    rw [← parseCoord8_coord8 s' e', h, parseCoord8_coord8]
  simpa using hread

/-- Settles O6: the bytes are the quotients and remainders by 256, and reading a block back recovers both coordinates. -/
theorem coordinateBlockLayout : Obligations.CoordinateBlockLayout :=
  fun s e => ⟨map_toNat_coord8 s e, fun _ _ => coord8_inj⟩

end Sys2Proof.Machine

/-! PROOFS. The initialization sequencer (spec 40_init_sequencer.md): INIT as a run of the table of R116, entry by entry; its
events as a function of the table and the answers; RESET without a line. -/

namespace Sys2Proof.Machine

/-! ## A table of transactions as steps of an operation -/

/-- A row of the table of R116: a transaction and the delay that follows it, if any. -/
abbrev TableEntry := Txn × Option Nat

/-- The steps of one row: the transaction, then its delay. -/
def entryActions (e : TableEntry) : List Action := .tx e.1 :: e.2.toList.map .delay

/-- The steps of a table, row after row. -/
def tableActions (entries : List TableEntry) : List Action := entries.flatMap entryActions

@[simp] theorem tableActions_nil : tableActions [] = [] := rfl

@[simp] theorem tableActions_cons (e : TableEntry) (es : List TableEntry) :
    tableActions (e :: es) = entryActions e ++ tableActions es := rfl

@[simp] theorem tableActions_append (es fs : List TableEntry) :
    tableActions (es ++ fs) = tableActions es ++ tableActions fs := List.flatMap_append

/-- The steps of INIT are its table (R116). -/
theorem initScript_eq_tableActions (c : Configuration) (m : Byte) :
    initScript c m = tableActions (initTable c m) := by
  have hvendor (v : List VendorEntry) :
      tableActions (v.map fun e => (⟨.param, some (vendorByte e.cmd), e.bytes⟩, none)) =
        v.map fun e => .tx (vendorTxn e) := by
    induction v with
    | nil => rfl
    | cons e v ih => rw [List.map_cons, tableActions_cons, ih]; rfl
  rw [initTable, tableActions_append, tableActions_append, hvendor]
  rfl

/-- An admitted INIT runs its table from phase 1. -/
theorem exec_init_idle {s : State} (h : Idle s) :
    exec .init s = .next (run .init 1 (tableActions (initTable s.cfg s.madctl)) s) := by
  rw [← initScript_eq_tableActions]
  exact guarded_idle h.1 h.2 _

/-! ## The table of INIT -/

/-- INIT's table has five rows besides the vendor rows. -/
theorem length_initTable (c : Configuration) (m : Byte) : (initTable c m).length = 5 + c.vendorTable.length := by
  simp only [initTable, List.length_append, List.length_cons, List.length_nil, List.length_map]
  omega

/-- The vendor table and the mode value are all that INIT's table depends on (R121). -/
theorem initTable_congr {c c' : Configuration} (h : c.vendorTable = c'.vendorTable) (m : Byte) :
    initTable c m = initTable c' m := by
  rw [initTable, initTable, h]

/-- The command bytes of INIT's table, in order (R121). -/
theorem map_cmd_initTable (c : Configuration) (m : Byte) :
    (initTable c m).map (fun e => e.1.cmd) =
      [some 0x01#8, some 0x11#8] ++ c.vendorTable.map (fun e => some (vendorByte e.cmd)) ++
        [some 0x3A#8, some 0x36#8, some 0x29#8] := by
  simp [initTable]

/-- Every vendor opcode is one of the ten (R88). -/
theorem vendorByte_mem_vendorOpcodes (v : VendorCmd) : vendorByte v ∈ vendorOpcodes := by
  cases v <;> decide

/-! ## Events of a table answered OK -/

@[simp] theorem okEvents_nil : okEvents [] = [] := rfl

@[simp] theorem okEvents_cons (e : TableEntry) (es : List TableEntry) :
    okEvents (e :: es) = .tx e.1 .ok :: (e.2.toList.map .delay ++ okEvents es) := rfl

@[simp] theorem txnsOf_nil : txnsOf [] = [] := rfl

@[simp] theorem txnsOf_tx_cons (t : Txn) (a : Answer) (es : List Event) :
    txnsOf (.tx t a :: es) = (t, a) :: txnsOf es := rfl

/-- Delays are no transactions. -/
@[simp] theorem txnsOf_delays_append (ds : List Nat) (es : List Event) :
    txnsOf (ds.map .delay ++ es) = txnsOf es := by
  induction ds with
  | nil => rfl
  | cons d ds ih => exact ih

/-- One transaction per row, each answered OK. -/
theorem txnsOf_okEvents (es : List TableEntry) : txnsOf (okEvents es) = es.map fun e => (e.1, .ok) := by
  induction es with
  | nil => rfl
  | cons e es ih => rw [okEvents_cons, txnsOf_tx_cons, txnsOf_delays_append, ih, List.map_cons]

/-- The events that are delays are the delays of the rows, in order. -/
theorem filter_delay_okEvents {isDelay : Event → Bool} (htx : ∀ t a, isDelay (.tx t a) = false)
    (hdelay : ∀ ms, isDelay (.delay ms) = true) (es : List TableEntry) :
    (okEvents es).filter isDelay = (es.filterMap Prod.snd).map .delay := by
  induction es with
  | nil => rfl
  | cons e es ih =>
    obtain ⟨t, _ | ms⟩ := e
    · simp [htx, ih]
    · simp [htx, hdelay, ih]

/-- The three delays of INIT (R116). -/
theorem delays_initTable (c : Configuration) (m : Byte) : (initTable c m).filterMap Prod.snd = [120, 20, 20] := by
  have hvendor : (c.vendorTable.map fun e =>
      ((⟨.param, some (vendorByte e.cmd), e.bytes⟩, none) : TableEntry)).filterMap Prod.snd = [] := by
    simp [List.filterMap_map]
  rw [initTable, List.filterMap_append, List.filterMap_append, hvendor]
  rfl

/-! ## Running a table whose transactions are answered OK -/

/-- A transaction that leaves the ghost window alone: no column and no row window command (R37). -/
def LeavesWindow (t : Txn) : Prop := t.cmd ≠ some (commandByte .caset) ∧ t.cmd ≠ some (commandByte .raset)

theorem noteWindow_eq_self {t : Txn} (h : LeavesWindow t) (s : State) : s.noteWindow t = s := by
  rw [State.noteWindow, if_neg h.1, if_neg h.2]

/-- No row of INIT's table is a window command. -/
theorem leavesWindow_of_mem_initTable {c : Configuration} {m : Byte} {e : TableEntry} (h : e ∈ initTable c m) :
    LeavesWindow e.1 := by
  have hmem := List.mem_map_of_mem (f := fun e : TableEntry => e.1.cmd) h
  have hvendor (v : VendorCmd) : vendorByte v ≠ 0x2A#8 ∧ vendorByte v ≠ 0x2B#8 := by cases v <;> decide
  rw [map_cmd_initTable] at hmem
  constructor <;> intro hcmd <;> simp [hcmd, commandByte, hvendor] at hmem

/-- The state once the rows `es` are answered OK and the answers `as` are left. -/
def State.afterOk (s : State) (es : List TableEntry) (as : List Answer) : State :=
  { s with answers := as, trace := s.trace ++ okEvents es }

theorem afterOk_afterOk (s : State) (es fs : List TableEntry) (as bs : List Answer) :
    (s.afterOk es as).afterOk fs bs = s.afterOk (es ++ fs) bs := by
  simp [State.afterOk, okEvents]

/-- The delay of a row is emitted, and the answers left stay. -/
theorem run_optional_delay (k : OpKind) (p : Nat) (d : Option Nat) (acts : List Action) (s : State) :
    run k p (d.toList.map .delay ++ acts) s = run k p acts { s with trace := s.trace ++ d.toList.map .delay } := by
  cases d with
  | none => simp
  | some ms => rfl

/-- One row answered OK: its events are emitted and the phase advances by one. -/
theorem run_entry_ok {s : State} {e : TableEntry} {as : List Answer} (hw : LeavesWindow e.1)
    (h : s.answers = .ok :: as) (k : OpKind) (p : Nat) (acts : List Action) :
    run k p (entryActions e ++ acts) s = run k (p + 1) acts (s.afterOk [e] as) := by
  rw [entryActions, List.cons_append, run_tx_ok h, State.accepted, noteWindow_eq_self hw, run_optional_delay]
  simp [State.emit, State.afterOk]

/-- Rows all answered OK: their events are emitted and the phase advances by their number. -/
theorem run_entries_ok {es : List TableEntry} (hw : ∀ e ∈ es, LeavesWindow e.1) {s : State} {as : List Answer}
    (h : s.answers = List.replicate es.length .ok ++ as) (k : OpKind) (p : Nat) (acts : List Action) :
    run k p (tableActions es ++ acts) s = run k (p + es.length) acts (s.afterOk es as) := by
  induction es generalizing s p with
  | nil => obtain rfl : s.answers = as := h; simp [State.afterOk]
  | cons e es ih =>
    obtain ⟨he, hes⟩ := List.forall_mem_cons.mp hw
    have hfirst : s.answers = .ok :: (List.replicate es.length .ok ++ as) := h
    calc run k p (tableActions (e :: es) ++ acts) s
        = run k (p + 1) (tableActions es ++ acts) (s.afterOk [e] (List.replicate es.length .ok ++ as)) := by
          rw [tableActions_cons, List.append_assoc, run_entry_ok he hfirst]
      _ = run k (p + 1 + es.length) acts (s.afterOk (e :: es) as) := by
          rw [ih hes rfl, afterOk_afterOk, List.singleton_append]
      _ = run k (p + (e :: es).length) acts (s.afterOk (e :: es) as) := by
          rw [List.length_cons, Nat.add_right_comm, Nat.add_assoc]

/-- A table whose first FAIL comes at row `i`: what precedes is emitted, then the failed transaction, and the operation ends with
its command and phase (R203, R207). -/
theorem run_table_fail {es : List TableEntry} (hw : ∀ e ∈ es, LeavesWindow e.1) {i : Nat} {u : Txn} {d : Option Nat}
    (hi : es[i]? = some (u, d)) {s : State} {as : List Answer} (h : s.answers = List.replicate i .ok ++ .fail :: as)
    (k : OpKind) (p : Nat) :
    run k p (tableActions es) s =
      ((s.afterOk (es.take i) (.fail :: as)).failed u as).finish k (.transportFailure u.cmd (p + i)) := by
  obtain ⟨hlt, hget⟩ := List.getElem?_eq_some_iff.mp hi
  have hlen : (es.take i).length = i := List.length_take_of_le hlt.le
  have hsplit : tableActions es = tableActions (es.take i) ++ tableActions ((u, d) :: es.drop (i + 1)) := by
    rw [← tableActions_append, ← hget, ← List.drop_eq_getElem_cons hlt, List.take_append_drop]
  rw [hsplit, run_entries_ok (fun e he => hw e (List.mem_of_mem_take he)) (by rw [hlen, h]), hlen]
  exact run_tx_fail rfl _ _ _ _

/-! ## How INIT ends -/

/-- The end of INIT adds its completion, and changes nothing else but the ghost flag (R37). -/
theorem finish_init {s : State} (hc : s.current = none) (c : Completion) :
    ∃ ghost, s.finish .init c = { s with completions := s.completions ++ [c], ctrlDefined := ghost } := by
  cases s
  cases hc
  cases c <;> exact ⟨_, rfl⟩

/-- INIT with every transaction answered OK (R116). -/
theorem exec_init_ok {s : State} {as : List Answer} (hidle : Idle s)
    (h : s.answers = List.replicate (5 + s.cfg.vendorTable.length) .ok ++ as) :
    ∃ ghost, exec .init s =
      .next { s with
        answers := as
        trace := s.trace ++ okEvents (initTable s.cfg s.madctl)
        completions := s.completions ++ [.ok]
        ctrlDefined := ghost } := by
  rw [← length_initTable s.cfg s.madctl] at h
  have hrun := run_entries_ok (fun e => leavesWindow_of_mem_initTable) h .init 1 []
  obtain ⟨ghost, hend⟩ := finish_init (s := s.afterOk (initTable s.cfg s.madctl) as) hidle.2 .ok
  rw [List.append_nil, run_nil, hend] at hrun
  exact ⟨ghost, by rw [exec_init_idle hidle, hrun]; rfl⟩

/-- INIT at its first FAIL (R116, R203, R207). -/
theorem exec_init_fail {s : State} {as : List Answer} {k : Nat} {u : Txn} {d : Option Nat} (hidle : Idle s)
    (hk : (initTable s.cfg s.madctl)[k]? = some (u, d)) (h : s.answers = List.replicate k .ok ++ .fail :: as) :
    ∃ ghost, exec .init s =
      .next { s with
        answers := as
        trace := s.trace ++ okEvents ((initTable s.cfg s.madctl).take k) ++ [.tx u .fail]
        completions := s.completions ++ [.transportFailure u.cmd (k + 1)]
        ctrlDefined := ghost } := by
  have hrun := run_table_fail (fun e => leavesWindow_of_mem_initTable) hk h .init 1
  obtain ⟨ghost, hend⟩ := finish_init
    (s := (s.afterOk ((initTable s.cfg s.madctl).take k) (.fail :: as)).failed u as) hidle.2
    (.transportFailure u.cmd (1 + k))
  rw [hend, Nat.add_comm 1 k] at hrun
  exact ⟨ghost, by rw [exec_init_idle hidle, hrun]; rfl⟩

/-- Settles O13: the table is run row by row, to its end or to the first FAIL; its transactions and delays are counted on the
table. -/
theorem initRunsItsTable : Obligations.InitRunsItsTable := by
  refine ⟨rfl, fun s as hidle => ⟨fun h => ⟨exec_init_ok hidle h, ?_, ?_⟩, fun k u d hk h => exec_init_fail hidle hk h⟩⟩
  · rw [txnsOf_okEvents, List.length_map, length_initTable]
  · rw [filter_delay_okEvents (fun _ _ => rfl) (fun _ => rfl), delays_initTable]
    rfl

/-! ## The events of a table, whatever the answers -/

/-- What running a table emits: the rows answered OK with their delays, up to the first FAIL or to where the answers end. -/
def tableEvents : List TableEntry → List Answer → List Event
  | [], _ => []
  | _ :: _, [] => []
  | e :: es, .ok :: as => .tx e.1 .ok :: (e.2.toList.map .delay ++ tableEvents es as)
  | e :: _, .fail :: _ => [.tx e.1 .fail]

/-- The trace of a table is decided by the table and the answers alone (R121). -/
theorem run_table_trace (k : OpKind) (p : Nat) (es : List TableEntry) (s : State) :
    (run k p (tableActions es) s).trace = s.trace ++ tableEvents es s.answers := by
  induction es generalizing p s with
  | nil => simp [tableEvents]
  | cons e es ih =>
    rw [tableActions_cons, entryActions, List.cons_append, run_tx]
    obtain ⟨h, hrun⟩ | ⟨as, h, hrun⟩ | ⟨as, h, hrun⟩ :=
      attempt_cases k p e.1 (e.2.toList.map .delay ++ tableActions es)
        (run k (p + 1) (e.2.toList.map .delay ++ tableActions es)) s
    · simp [hrun, h, tableEvents]
    · simp [hrun, h, tableEvents, run_optional_delay, ih]
    · simp [hrun, h, tableEvents]

/-- The transactions of a table are sent in the order of its rows (R121). -/
theorem txnsOf_tableEvents_prefix (es : List TableEntry) (as : List Answer) :
    (txnsOf (tableEvents es as)).map Prod.fst <+: es.map Prod.fst := by
  induction es generalizing as with
  | nil => exact List.prefix_refl _
  | cons e es ih =>
    obtain _ | ⟨_ | _, as⟩ := as
    · exact List.nil_prefix
    · simpa [tableEvents] using ih as
    · simp [tableEvents]

/-- The trace of INIT, whatever the answers. -/
theorem exec_init_trace {s t : State} (hidle : Idle s) (h : exec .init s = .next t) :
    t.trace = s.trace ++ tableEvents (initTable s.cfg s.madctl) s.answers := by
  rw [exec_init_idle hidle] at h
  injection h with h
  rw [← h, run_table_trace]

/-- The commands INIT sends are an initial part of those of its table. -/
theorem commands_tableEvents_prefix (es : List TableEntry) (as : List Answer) :
    (txnsOf (tableEvents es as)).map (fun e => e.1.cmd) <+: es.map (fun e => e.1.cmd) := by
  simpa [Function.comp_def] using (txnsOf_tableEvents_prefix es as).map Txn.cmd

/-- Settles O15: the events of INIT are `tableEvents` of its table and the answers, and the table has the commands in order and
depends on the vendor table and MADCTL only. -/
theorem initOrderWhateverTheEnvironment : Obligations.InitOrderWhateverTheEnvironment := by
  constructor
  · intro s t hidle h
    refine ⟨_, exec_init_trace hidle h, ?_, fun e _ => vendorByte_mem_vendorOpcodes e.cmd⟩
    rw [← map_cmd_initTable s.cfg s.madctl]
    exact commands_tableEvents_prefix _ _
  · intro s s' hidle hidle' hvendor hmode hans
    have hexec := exec_init_idle hidle
    have hexec' := exec_init_idle hidle'
    refine ⟨_, _, _, hexec, hexec', exec_init_trace hidle hexec, ?_⟩
    rw [exec_init_trace hidle' hexec', initTable_congr hvendor, hmode, hans]

/-! ## RESET without a line -/

/-- An admitted RESET runs its steps from phase 1. -/
theorem exec_reset_idle {s : State} (h : Idle s) : exec .reset s = .next (run .reset 1 (resetScript s.cfg) s) :=
  guarded_idle h.1 h.2 _

/-- Without a reset line RESET has no steps (R113). -/
theorem resetScript_of_no_line {c : Configuration} (h : c.hasRst = false) : resetScript c = [] := by
  simp [resetScript, h]

/-- The end of RESET adds its completion and changes nothing else. -/
theorem finish_reset {s : State} (hc : s.current = none) (c : Completion) :
    s.finish .reset c = { s with completions := s.completions ++ [c] } := by
  cases s
  cases hc
  rfl

/-- Settles O11: there are no steps, so the request ends at once. -/
theorem resetWithoutALine : Obligations.ResetWithoutALine := by
  intro s hidle hline
  rw [exec_reset_idle hidle, resetScript_of_no_line hline, run_nil, finish_reset hidle.2]

end Sys2Proof.Machine

/-! PROOFS. The orientation and pass-through requests (spec 41_orientation.md): what a request of one transaction does when it is
answered OK and when it is answered FAIL, and the two field updates of MADCTL, bit by bit. -/

namespace Sys2Proof.Machine

/-! ## Starting a request on an idle engine -/

/-- On an idle engine a request runs the steps it starts, from phase 1. -/
theorem Starts.exec_idle {s : State} {i : Instr} {k : OpKind} {acts : List Action} (h : Starts s i k acts)
    (hidle : Idle s) : exec i s = .next (run k 1 acts s) := by
  obtain ⟨ha, hc⟩ := hidle
  cases h with
  | draw hvalid hfits => exact (guarded_idle ha hc _).trans (by rw [hvalid]; simp [hfits])
  | _ => exact guarded_idle ha hc _

/-! ## Operations that end with their completion alone -/

/-- An operation whose end adds its completion and touches neither CONV_BUF nor the ghost state (R37, R208). -/
abbrev EndsPlainly (k : OpKind) : Prop := k ≠ .bare ∧ k ≠ .init ∧ k ≠ .draw

theorem finish_of_endsPlainly {k : OpKind} (hk : EndsPlainly k) {s : State} (hc : s.current = none) (c : Completion) :
    s.finish k c = { s with completions := s.completions ++ [c] } := by
  obtain ⟨hbare, hinit, hdraw⟩ := hk
  cases s
  cases hc
  cases k with
  | bare => exact absurd rfl hbare
  | init => exact absurd rfl hinit
  | draw => exact absurd rfl hdraw
  | _ => rfl

/-! ## Transactions that leave the ghost window alone -/

/-- Distinct commands have distinct command bytes (R80). -/
theorem commandByte_injective : Function.Injective commandByte := fun c c' h => by
  simpa using congrArg commandOfByte h

/-- Only the two window commands touch the ghost window (R37). -/
theorem leavesWindow_wireTxn {c : Command} (hcol : c ≠ .caset) (hrow : c ≠ .raset) (d : List Byte) :
    LeavesWindow (wireTxn c d) :=
  ⟨fun h => hcol (commandByte_injective (Option.some.inj h)), fun h => hrow (commandByte_injective (Option.some.inj h))⟩

/-- Such a transaction answered OK consumes its answer and is emitted, and changes nothing else. -/
theorem accepted_of_leavesWindow {t : Txn} (h : LeavesWindow t) (s : State) (as : List Answer) :
    s.accepted t as = { s with answers := as, trace := s.trace ++ [.tx t .ok] } :=
  noteWindow_eq_self h _

/-! ## Requests of one transaction -/

section OneTransaction

variable {s : State} {i : Instr} {k : OpKind} {as : List Answer}

/-- A first transaction answered FAIL ends the request with TRANSPORT_FAILURE at phase 1 (R203, R207). -/
theorem Starts.exec_fail {t : Txn} {rest : List Action} (h : Starts s i k (.tx t :: rest)) (hk : EndsPlainly k)
    (hidle : Idle s) (has : s.answers = .fail :: as) :
    exec i s =
      .next { s with
        answers := as
        trace := s.trace ++ [.tx t .fail]
        completions := s.completions ++ [.transportFailure t.cmd 1] } := by
  rw [h.exec_idle hidle, run_tx_fail has, finish_of_endsPlainly hk]
  · rfl
  · exact hidle.2

/-- A single transaction answered OK completes the request and writes no register (R140, R143). -/
theorem Starts.exec_ok_single {t : Txn} (h : Starts s i k [.tx t]) (hw : LeavesWindow t) (hk : EndsPlainly k)
    (hidle : Idle s) (has : s.answers = .ok :: as) :
    exec i s =
      .next { s with
        answers := as
        trace := s.trace ++ [.tx t .ok]
        completions := s.completions ++ [.ok] } := by
  rw [h.exec_idle hidle, run_tx_ok has, accepted_of_leavesWindow hw, run_nil, finish_of_endsPlainly hk]
  exact hidle.2

/-- A mode register value sent and answered OK is kept in MADCTL (R131, R136). -/
theorem Starts.exec_ok_mode {m : Byte} (h : Starts s i k (modeScript m)) (hk : EndsPlainly k)
    (hidle : Idle s) (has : s.answers = .ok :: as) :
    exec i s =
      .next { s with
        madctl := m
        answers := as
        trace := s.trace ++ [.tx (wireTxn .madctl [m]) .ok]
        completions := s.completions ++ [.ok] } := by
  have hw : LeavesWindow (wireTxn .madctl [m]) := leavesWindow_wireTxn (by decide) (by decide) _
  rw [h.exec_idle hidle, modeScript, run_tx_ok has, accepted_of_leavesWindow hw, run_setMadctl, run_nil,
    finish_of_endsPlainly hk]
  exact hidle.2

end OneTransaction

/-! ## The two field updates, bit by bit -/

/-- The byte of SET_MIRROR is the one whose bits are y, x and those of the old byte (R131, R132). -/
theorem eq_withMirror_of_bits {new old : Byte} {x y : Bool} (hy : new.getLsbD 7 = y) (hx : new.getLsbD 6 = x)
    (hkeep : ∀ j < 6, new.getLsbD j = old.getLsbD j) : new = withMirror old x y := by
  apply BitVec.eq_of_getLsbD_eq
  intro j hj
  rw [withMirror, BitVec.getLsbD_append, BitVec.getLsbD_append]
  obtain hlow | rfl | rfl : j < 6 ∨ j = 6 ∨ j = 7 := by omega
  · simp [hkeep j hlow, hlow]
  · simpa using hx
  · simpa using hy

/-- The byte of SET_SWAP_AXES is the one whose bit 5 is the operand and whose other bits are the old byte's (R136). -/
theorem eq_withSwap_of_bits {new old : Byte} {sw : Bool} (hsw : new.getLsbD 5 = sw)
    (hkeep : ∀ j < 8, j ≠ 5 → new.getLsbD j = old.getLsbD j) : new = withSwap old sw := by
  apply BitVec.eq_of_getLsbD_eq
  intro j hj
  rw [withSwap, BitVec.getLsbD_append, BitVec.getLsbD_append]
  obtain hlow | rfl | rfl | rfl : j < 5 ∨ j = 5 ∨ j = 6 ∨ j = 7 := by omega
  · simp [hkeep j hj hlow.ne, hlow]
  · simpa using hsw
  · simpa using hkeep 6 hj (by decide)
  · simpa using hkeep 7 hj (by decide)

/-! ## SET_MIRROR and SET_SWAP_AXES -/

/-- Settles O24: the byte is determined by its bits, and each answer gives the next state of a request of one transaction. -/
theorem setMirrorWritesItsTwoBits : Obligations.SetMirrorWritesItsTwoBits := by
  intro x y
  refine ⟨by cases x <;> cases y <;> rfl, fun s as new hidle hy hx hkeep => ?_⟩
  obtain rfl := eq_withMirror_of_bits hy hx hkeep
  have hstart := Starts.setMirror (s := s) x y
  exact ⟨hstart.exec_ok_mode (by decide) hidle, hstart.exec_fail (by decide) hidle⟩

/-- Settles O25: the byte is determined by its bits, and each answer gives the next state of a request of one transaction. -/
theorem setSwapAxesWritesItsBit : Obligations.SetSwapAxesWritesItsBit := by
  intro sw
  refine ⟨by cases sw <;> rfl, fun s as new hidle hsw hkeep => ?_⟩
  obtain rfl := eq_withSwap_of_bits hsw hkeep
  have hstart := Starts.setSwapAxes (s := s) sw
  exact ⟨hstart.exec_ok_mode (by decide) hidle, hstart.exec_fail (by decide) hidle⟩

/-- A mode transmission that ends its operation with TRANSPORT_FAILURE leaves MADCTL as it was: it still waits without an
answer, and answered OK it completes OK, so it was answered FAIL (R134). -/
theorem run_modeScript_rollsBack {k : OpKind} {p phase : Nat} {m : Byte} {s : State} {cmd : Option Byte} (hk : k ≠ .bare)
    (hend : (run k p (modeScript m) s).current = none)
    (hfail : (run k p (modeScript m) s).completions = s.completions ++ [.transportFailure cmd phase]) :
    (run k p (modeScript m) s).madctl = s.madctl := by
  rw [modeScript, run_tx] at hend hfail ⊢
  obtain ⟨-, hrun⟩ | ⟨as, -, hrun⟩ | ⟨as, -, hrun⟩ :=
    attempt_cases k p (wireTxn .madctl [m]) [.setMadctl m] (run k (p + 1) [.setMadctl m]) s
  · rw [hrun] at hend
    cases hend
  · rw [hrun] at hfail
    simp [hk] at hfail
  · simp [hrun]

/-- Settles O26: both requests are a mode transmission. -/
theorem failedModeTransmissionRollsBack : Obligations.FailedModeTransmissionRollsBack := by
  intro i s t cmd phase hi hidle hexec hend hfail
  have hmode : ∃ k m, k ≠ .bare ∧ Starts s i k (modeScript m) := by
    obtain ⟨x, y, rfl⟩ | ⟨sw, rfl⟩ := hi
    · exact ⟨_, _, by decide, .setMirror x y⟩
    · exact ⟨_, _, by decide, .setSwapAxes sw⟩
  obtain ⟨k, m, hk, hstart⟩ := hmode
  rw [hstart.exec_idle hidle] at hexec
  injection hexec with ht
  subst ht
  exact run_modeScript_rollsBack hk hend hfail

/-! ## INVERT_COLOR and DISPLAY_POWER -/

/-- The transaction of INVERT_COLOR (R140). -/
theorem invertColor_txn (v : Bool) :
    wireTxn (if v then .invon else .invoff) [] = ⟨.param, some (if v then 0x21#8 else 0x20#8), []⟩ := by
  cases v <;> rfl

/-- The transaction of DISPLAY_POWER (R143). -/
theorem displayPower_txn (p : Bool) :
    wireTxn (if p then .dispon else .dispoff) [] = ⟨.param, some (if p then 0x29#8 else 0x28#8), []⟩ := by
  cases p <;> rfl

/-- Settles O28: INVERT_COLOR is a single transaction. -/
theorem invertColorPassesThrough : Obligations.InvertColorPassesThrough := by
  rintro v _ rfl
  refine ⟨by cases v <;> rfl, fun s as hidle => ?_⟩
  have hw : LeavesWindow (wireTxn (if v then .invon else .invoff) []) :=
    leavesWindow_wireTxn (by cases v <;> decide) (by cases v <;> decide) _
  have hstart := Starts.invertColor (s := s) v
  rw [invertColor_txn] at hw hstart
  exact ⟨hstart.exec_ok_single hw (by decide) hidle, hstart.exec_fail (by decide) hidle⟩

/-- Settles O29: DISPLAY_POWER is a single transaction, without a delay. -/
theorem displayPowerPassesThrough : Obligations.DisplayPowerPassesThrough := by
  rintro p _ rfl
  refine ⟨by cases p <;> rfl, fun s as hidle => ?_⟩
  have hw : LeavesWindow (wireTxn (if p then .dispon else .dispoff) []) :=
    leavesWindow_wireTxn (by cases p <;> decide) (by cases p <;> decide) _
  have hstart := Starts.displayPower (s := s) p
  rw [displayPower_txn] at hw hstart
  exact ⟨hstart.exec_ok_single hw (by decide) hidle, hstart.exec_fail (by decide) hidle⟩

end Sys2Proof.Machine

/-! PROOFS. The operands of the blit engine (spec 42_blit.md): the pixel conversion, the order of the pixels in CONV_BUF, the
window and the pixel count of a valid DRAW. -/

namespace Sys2Proof.Machine

/-! ## The pixel conversion -/

/-- A field of `w` bits above `z` zero bits is the pixel shifted down, masked and shifted up (R161). -/
theorem channel_eq_shift (p : Half) (k : Nat) {w z : Nat} (hwz : w + z ≤ 16) :
    p.extractLsb' k w ++ 0#z = (((p >>> k) &&& BitVec.ofNat 16 (2 ^ w - 1)) <<< z).setWidth (w + z) := by
  have hmask : (2 ^ w - 1) % 2 ^ 16 = 2 ^ w - 1 := by
    have hle : 2 ^ w ≤ 2 ^ 16 := Nat.pow_le_pow_right (by decide) (by omega)
    exact Nat.mod_eq_of_lt (by omega)
  have hlt : (p.toNat >>> k % 2 ^ w) <<< z < 2 ^ (w + z) := by
    rw [Nat.shiftLeft_eq, Nat.pow_add]
    exact Nat.mul_lt_mul_of_pos_right (Nat.mod_lt _ (Nat.two_pow_pos w)) (Nat.two_pow_pos z)
  apply BitVec.eq_of_toNat_eq
  rw [BitVec.toNat_append, BitVec.extractLsb'_toNat, BitVec.toNat_ofNat, Nat.zero_mod, Nat.or_zero,
    BitVec.toNat_setWidth, BitVec.toNat_shiftLeft, BitVec.toNat_and, BitVec.toNat_ushiftRight, BitVec.toNat_ofNat, hmask,
    Nat.and_two_pow_sub_one_eq_mod, Nat.mod_mod_of_dvd _ (Nat.pow_dvd_pow 2 hwz), Nat.mod_eq_of_lt hlt]

/-- What a red or blue byte says of its five bits: it gives them back, its low bits are zero, it is at most F8. -/
theorem fiveBitChannel_facts (x : BitVec 5) :
    (x ++ 0#3 : Byte).extractLsb' 3 5 = x ∧ (x ++ 0#3 : Byte) &&& 0x07#8 = 0#8 ∧ (x ++ 0#3 : Byte) ≤ 0xF8#8 := by
  revert x
  decide

/-- What a green byte says of its six bits: it gives them back, its low bits are zero, it is at most FC. -/
theorem sixBitChannel_facts (x : BitVec 6) :
    (x ++ 0#2 : Byte).extractLsb' 2 6 = x ∧ (x ++ 0#2 : Byte) &&& 0x03#8 = 0#8 ∧ (x ++ 0#2 : Byte) ≤ 0xFC#8 := by
  revert x
  decide

/-- The three fields of a pixel, red first, are the pixel (R53). -/
theorem pixelFields_append (p : Half) :
    (p.extractLsb' 11 5 ++ p.extractLsb' 5 6 ++ p.extractLsb' 0 5 : Half) = p := by
  rw [BitVec.extractLsb'_append_extractLsb'_eq_extractLsb' (by rfl),
    BitVec.extractLsb'_append_extractLsb'_eq_extractLsb' (by rfl), BitVec.extractLsb'_eq_self]

/-- Settles O5: each channel is a field of the pixel above zero bits, and the three fields make up the pixel. -/
theorem conversionFollowsTheShifts : Obligations.ConversionFollowsTheShifts := by
  refine ⟨fun p => ?_, rfl⟩
  obtain ⟨hr, hrlow, hrmax⟩ := fiveBitChannel_facts (p.extractLsb' 11 5)
  obtain ⟨hg, hglow, hgmax⟩ := sixBitChannel_facts (p.extractLsb' 5 6)
  obtain ⟨hb, hblow, hbmax⟩ := fiveBitChannel_facts (p.extractLsb' 0 5)
  refine ⟨_, _, _, rfl, channel_eq_shift p 11 (by decide), channel_eq_shift p 5 (by decide), ?_, ?_,
    hrlow, hglow, hblow, hrmax, hgmax, hbmax⟩
  · simpa using channel_eq_shift p 0 (w := 5) (z := 3) (by decide)
  · rw [hr, hg, hb, pixelFields_append]

/-! ## The order of the pixels -/

/-- Byte 3i + k of the converted pixels is byte k of pixel i (R160). -/
theorem convAll_getElem? {px : List Half} {i k : Nat} {p : Half} (hi : px[i]? = some p) (hk : k < 3) :
    (convAll px)[3 * i + k]? = (conv p)[k]? := by
  induction px generalizing i with
  | nil => cases hi
  | cons q px ih =>
    have hcons : convAll (q :: px) = conv q ++ convAll px := rfl
    have hthree : (conv q).length = 3 := rfl
    cases i with
    | zero =>
      obtain rfl : q = p := by simpa using hi
      rw [hcons, Nat.mul_zero, Nat.zero_add, List.getElem?_append_left (hthree ▸ hk)]
    | succ i =>
      have hlater : 3 * (i + 1) + k = 3 + (3 * i + k) := by omega
      rw [hcons, hlater, List.getElem?_append_right (by omega), hthree, Nat.add_sub_cancel_left]
      exact ih (by simpa using hi)

/-- Settles O7: the conversion writes the converted pixels at index 0, so `readByte_writeBytes` says what is read. -/
theorem pixelsStandInInputOrder : Obligations.PixelsStandInInputOrder := by
  intro s px
  constructor
  · intro i k p hi hk
    have hlt : i < px.length := (List.getElem?_eq_some_iff.mp hi).1
    have hin : 0 ≤ 3 * i + k ∧ 3 * i + k < 0 + (convAll px).length := by rw [convAll_length]; omega
    rw [convertPixels_convBuf, readByte_writeBytes, if_pos hin, Nat.sub_zero, convAll_getElem? hi hk]
  · intro a ha
    have hout : ¬(0 ≤ a ∧ a < 0 + (convAll px).length) := by rw [convAll_length]; omega
    rw [convertPixels_convBuf, readByte_writeBytes, if_neg hout]

/-! ## The window and the pixel count -/

/-- A first coordinate that fits is the sum itself (R155). -/
theorem toNat_windowFirst {start gap : Half} (h : start.toNat + gap.toNat < 65536) :
    (windowFirst start gap).toNat = start.toNat + gap.toNat :=
  (BitVec.toNat_ofNat _ _).trans (Nat.mod_eq_of_lt h)

/-- A last coordinate that fits is the sum less one (R155). -/
theorem toNat_windowLast {stop gap : Half} (h : stop.toNat + gap.toNat ≤ 65536) :
    (windowLast stop gap).toNat = stop.toNat + gap.toNat - 1 :=
  (BitVec.toNat_ofNat _ _).trans (Nat.mod_eq_of_lt (by omega))

/-- One axis of a valid DRAW: no wrap, and the start is not above the end (R156, R157). -/
theorem window_of_valid_axis {start stop gap : Half} (h : start.toNat < stop.toNat)
    (hfits : stop.toNat + gap.toNat ≤ 65536) :
    (windowFirst start gap).toNat = start.toNat + gap.toNat ∧
    (windowLast stop gap).toNat = stop.toNat + gap.toNat - 1 ∧
    (windowFirst start gap).toNat ≤ (windowLast stop gap).toNat := by
  have hfirst : (windowFirst start gap).toNat = start.toNat + gap.toNat := toNat_windowFirst (by omega)
  have hlast := toNat_windowLast hfits
  exact ⟨hfirst, hlast, by omega⟩

/-- Settles O8: each axis of a valid DRAW is `window_of_valid_axis`. -/
theorem windowOfAValidDraw : Obligations.WindowOfAValidDraw := by
  intro c xs ys xe ye px hvalid
  obtain ⟨hcs, hce, hcols⟩ := window_of_valid_axis hvalid.columns hvalid.columnFits
  obtain ⟨hrs, hre, hrows⟩ := window_of_valid_axis hvalid.rows hvalid.rowFits
  exact ⟨hcs, hce, hcols, hrs, hre, hrows⟩

/-- Settles O9: the width and the height of a valid DRAW are between 1 and 65535. -/
theorem pixelCountOfAValidDraw : Obligations.PixelCountOfAValidDraw := by
  intro c xs ys xe ye px hvalid
  have hcols := hvalid.columns
  have hrows := hvalid.rows
  have hatLeast : 1 ≤ pixelCount xs ys xe ye := Nat.mul_pos (by omega) (by omega)
  have hatMost : pixelCount xs ys xe ye ≤ 65535 * 65535 := Nat.mul_le_mul (by omega) (by omega)
  exact ⟨rfl, hatLeast, hatMost, by omega⟩

end Sys2Proof.Machine

/-! PROOFS. DRAW (spec 42_blit.md): the four transactions its steps hand over, how far the answers take them, and how DRAW
ends. -/

namespace Sys2Proof.Machine

/-! ## The transactions that steps hand over -/

/-- Run from `s`, the steps hand over the transactions `ts`, in order, as long as they are answered OK. The steps are
transactions and conversions only, as those of DRAW. -/
inductive HandsOver : State → List Action → List Txn → Prop where
  | nil (s : State) : HandsOver s [] []
  | tx {s : State} {t : Txn} {acts : List Action} {ts : List Txn} (h : ∀ as, HandsOver (s.accepted t as) acts ts) :
      HandsOver s (.tx t :: acts) (t :: ts)
  | txScratch {s : State} {n : Nat} {acts : List Action} {ts : List Txn}
      (h : HandsOver s (.tx (payloadTxn (scratchBytes s n)) :: acts) ts) : HandsOver s (.txScratch n :: acts) ts
  | convert {s : State} {px : List Half} {acts : List Action} {ts : List Txn}
      (h : HandsOver (s.convertPixels px) acts ts) : HandsOver s (.convert px :: acts) ts

/-- The events of transactions answered OK. -/
abbrev acceptedEvents (ts : List Txn) : List Event := ts.map fun t => .tx t .ok

/-- `s'` is `s` after the events `es`, with the answers `as` left; only CONV_BUF and the ghost window may differ besides. -/
def Advanced (s : State) (es : List Event) (as : List Answer) (s' : State) : Prop :=
  ∃ buf columns rows, s' =
    { s with answers := as, trace := s.trace ++ es, convBuf := buf, ctrlColumns := columns, ctrlRows := rows }

theorem Advanced.refl {s : State} {as : List Answer} (h : s.answers = as) : Advanced s [] as s := by
  subst h
  exact ⟨s.convBuf, s.ctrlColumns, s.ctrlRows, by rw [List.append_nil]⟩

/-- A transaction answered OK is its event. -/
theorem advanced_accepted (s : State) (t : Txn) (as : List Answer) : Advanced s [.tx t .ok] as (s.accepted t as) := by
  unfold State.accepted State.noteWindow
  split
  · exact ⟨_, _, _, rfl⟩
  · split <;> exact ⟨_, _, _, rfl⟩

/-- A conversion is no event. -/
theorem advanced_convertPixels {s : State} {as : List Answer} (h : s.answers = as) (px : List Half) :
    Advanced s [] as (s.convertPixels px) := by
  subst h
  exact ⟨_, _, _, by rw [List.append_nil]; rfl⟩

theorem Advanced.trans {s s' s'' : State} {es fs : List Event} {as bs : List Answer} (h : Advanced s es as s')
    (h' : Advanced s' fs bs s'') : Advanced s (es ++ fs) bs s'' := by
  obtain ⟨buf, columns, rows, rfl⟩ := h
  obtain ⟨buf', columns', rows', rfl⟩ := h'
  exact ⟨buf', columns', rows', by rw [List.append_assoc]⟩

/-- Steps whose transactions are all answered OK run to their end (R163). -/
theorem HandsOver.run_ok {s : State} {acts : List Action} {ts : List Txn} (h : HandsOver s acts ts) {as : List Answer}
    (has : s.answers = List.replicate ts.length Answer.ok ++ as) (k : OpKind) (p : Nat) :
    ∃ s', Advanced s (acceptedEvents ts) as s' ∧ run k p acts s = s'.finish k .ok := by
  induction h generalizing p with
  | nil s => exact ⟨s, .refl has, rfl⟩
  | @tx s t acts ts _ ih =>
    have hfirst : s.answers = .ok :: (List.replicate ts.length Answer.ok ++ as) := has
    obtain ⟨s', hadv, hrun⟩ := ih (List.replicate ts.length Answer.ok ++ as) (accepted_answers ..) (p + 1)
    exact ⟨s', (advanced_accepted ..).trans hadv, by rw [run_tx_ok hfirst, hrun]⟩
  | txScratch _ ih => exact ih has p
  | convert _ ih =>
    obtain ⟨s', hadv, hrun⟩ := ih has p
    exact ⟨s', (advanced_convertPixels rfl _).trans hadv, hrun⟩

/-- Steps whose first `i` transactions are answered OK come to transaction `i + 1`, at that phase (R27, R163). -/
theorem HandsOver.run_reaches {s : State} {acts : List Action} {ts : List Txn} (h : HandsOver s acts ts) {i : Nat} {u : Txn}
    (hi : ts[i]? = some u) {as : List Answer} (has : s.answers = List.replicate i Answer.ok ++ as) (k : OpKind) (p : Nat) :
    ∃ s' rest, Advanced s (acceptedEvents (ts.take i)) as s' ∧ run k p acts s = run k (p + i) (.tx u :: rest) s' := by
  induction h generalizing i p with
  | nil s => cases hi
  | @tx s t acts ts _ ih =>
    cases i with
    | zero =>
      obtain rfl : t = u := by simpa using hi
      exact ⟨s, acts, .refl has, rfl⟩
    | succ i =>
      have hfirst : s.answers = .ok :: (List.replicate i Answer.ok ++ as) := has
      obtain ⟨s', rest, hadv, hrun⟩ :=
        ih (List.replicate i Answer.ok ++ as) (by simpa using hi) (accepted_answers ..) (p + 1)
      refine ⟨s', rest, (advanced_accepted ..).trans hadv, ?_⟩
      rw [run_tx_ok hfirst, hrun, Nat.add_right_comm, Nat.add_assoc]
  | txScratch _ ih => exact ih hi has p
  | convert _ ih =>
    obtain ⟨s', rest, hadv, hrun⟩ := ih hi has p
    exact ⟨s', rest, (advanced_convertPixels rfl _).trans hadv, hrun⟩

/-- Any answers start with `n` times OK, or with fewer and then end or go on with FAIL (R183). -/
theorem answers_cases (n : Nat) (answers : List Answer) :
    (∃ as, answers = List.replicate n Answer.ok ++ as) ∨
      ∃ i < n, answers = List.replicate i Answer.ok ∨ ∃ as, answers = List.replicate i Answer.ok ++ .fail :: as := by
  induction n generalizing answers with
  | zero => exact .inl ⟨answers, rfl⟩
  | succ n ih =>
    obtain _ | ⟨_ | _, answers⟩ := answers
    · exact .inr ⟨0, n.succ_pos, .inl rfl⟩
    · obtain ⟨as, rfl⟩ | ⟨i, hi, rfl | ⟨as, rfl⟩⟩ := ih answers
      · exact .inl ⟨as, rfl⟩
      · exact .inr ⟨i + 1, Nat.succ_lt_succ hi, .inl rfl⟩
      · exact .inr ⟨i + 1, Nat.succ_lt_succ hi, .inr ⟨as, rfl⟩⟩
    · exact .inr ⟨0, n.succ_pos, .inr ⟨answers, rfl⟩⟩

/-! ## What DRAW starts -/

/-- The four transactions of DRAW (R151, R158). -/
def drawTxns (c : Configuration) (xs ys xe ye : Half) (px : List Half) : List Txn :=
  [wireTxn .caset (coord8 (windowFirst xs c.xGap) (windowLast xe c.xGap)),
   wireTxn .raset (coord8 (windowFirst ys c.yGap) (windowLast ye c.yGap)),
   wireTxn .ramwr [],
   payloadTxn (convAll px)]

/-- A transaction answered OK leaves the bytes of CONV_BUF alone. -/
@[simp] theorem scratchBytes_accepted (s : State) (t : Txn) (as : List Answer) (n : Nat) :
    scratchBytes (s.accepted t as) n = scratchBytes s n := by
  have hbyte : scratchByte (s.accepted t as) = scratchByte s := funext fun a => by simp [scratchByte]
  rw [scratchBytes, hbyte, scratchBytes]

/-- DRAW's steps hand over its four transactions: the payload is read back from CONV_BUF as it was converted (R162). -/
theorem drawScript_handsOver {c : Configuration} {xs ys xe ye : Half} {px : List Half}
    (hpx : px.length = pixelCount xs ys xe ye) (s : State) :
    HandsOver s (drawScript c xs ys xe ye px) (drawTxns c xs ys xe ye px) := by
  refine .tx fun _ => .tx fun _ => .convert (.tx fun _ => .txScratch ?_)
  rw [scratchBytes_accepted, ← hpx, scratchBytes_convertPixels]
  exact .tx fun _ => .nil _

/-- DRAW has no reason to be refused exactly in the valid domain (R152, R153). -/
theorem drawRefusal_eq_none_iff {c : Configuration} {xs ys xe ye : Half} {px : List Half} :
    drawRefusal c xs ys xe ye px = none ↔ DrawValid c xs ys xe ye px := by
  constructor
  · intro h
    unfold drawRefusal at h
    split_ifs at h with hnonempty hfits hcount
    exact ⟨hnonempty.1, hnonempty.2, hfits.1, hfits.2, not_not.mp hcount⟩
  · intro ⟨hcols, hrows, hcolFits, hrowFits, hcount⟩
    have hcount' : ¬px.length ≠ pixelCount xs ys xe ye := not_not.mpr hcount
    rw [drawRefusal, if_neg (not_not.mpr ⟨hcols, hrows⟩), if_neg (not_not.mpr ⟨hcolFits, hrowFits⟩), if_neg hcount']

/-! ## How DRAW ends -/

/-- The end of a DRAW with OK adds its completion and gives up CONV_BUF (R32). -/
theorem finish_draw_ok {s : State} (hc : s.current = none) :
    s.finish .draw .ok = { s with completions := s.completions ++ [.ok], convBuf := [] } := by
  cases s
  cases hc
  rfl

/-- The end of a DRAW with TRANSPORT_FAILURE also leaves nothing known of the controller's window (R37). -/
theorem finish_draw_fail {s : State} (hc : s.current = none) (cmd : Option Byte) (phase : Nat) :
    s.finish .draw (.transportFailure cmd phase) =
      { s with
        completions := s.completions ++ [.transportFailure cmd phase]
        convBuf := []
        ctrlDefined := false
        ctrlColumns := none
        ctrlRows := none } := by
  cases s
  cases hc
  rfl

section OnAnIdleEngine

variable {s : State} {xs ys xe ye : Half} {px : List Half}

/-- A DRAW with a reason to be refused is refused (R153). -/
theorem exec_draw_refused {r : Refusal} (hidle : Idle s) (h : drawRefusal s.cfg xs ys xe ye px = some r) :
    exec (.draw xs ys xe ye px) s = .refused r :=
  (guarded_idle hidle.1 hidle.2 _).trans (by rw [h])

/-- A valid DRAW over the capacity is turned away (R154). -/
theorem exec_draw_overCapacity (hidle : Idle s) (hvalid : DrawValid s.cfg xs ys xe ye px)
    (hover : s.cfg.capPixels.toNat < pixelCount xs ys xe ye) : exec (.draw xs ys xe ye px) s = .next (sizeLimit s) :=
  (guarded_idle hidle.1 hidle.2 _).trans (by rw [drawRefusal_eq_none_iff.mpr hvalid]; simp [hover])

/-- A valid DRAW within the capacity runs its steps from phase 1 (R151). -/
theorem exec_draw_runs (hidle : Idle s) (hvalid : DrawValid s.cfg xs ys xe ye px)
    (hcap : px.length ≤ s.cfg.capPixels.toNat) :
    exec (.draw xs ys xe ye px) s = .next (run .draw 1 (drawScript s.cfg xs ys xe ye px) s) :=
  (Starts.draw (drawRefusal_eq_none_iff.mpr hvalid) (hvalid.pixels.ge.trans hcap)).exec_idle hidle

/-- A DRAW completed OK: its four transactions are emitted, and only CONV_BUF and the ghost window may differ besides
(R158, R163). -/
theorem exec_draw_ok {as : List Answer} (hidle : Idle s) (hvalid : DrawValid s.cfg xs ys xe ye px)
    (hcap : px.length ≤ s.cfg.capPixels.toNat) (has : s.answers = .ok :: .ok :: .ok :: .ok :: as) :
    ∃ buf columns rows, exec (.draw xs ys xe ye px) s =
      .next { s with
        answers := as
        trace := s.trace ++ acceptedEvents (drawTxns s.cfg xs ys xe ye px)
        completions := s.completions ++ [.ok]
        convBuf := buf
        ctrlColumns := columns
        ctrlRows := rows } := by
  obtain ⟨_, ⟨_, columns, rows, rfl⟩, hrun⟩ := (drawScript_handsOver hvalid.pixels s).run_ok has .draw 1
  refine ⟨[], columns, rows, ?_⟩
  rw [exec_draw_runs hidle hvalid hcap, hrun, finish_draw_ok]
  exact hidle.2

/-- A DRAW at its first FAIL: nothing is emitted after the failed transaction, and only CONV_BUF and the ghost state may differ
besides (R164). -/
theorem exec_draw_fail {as : List Answer} {k : Nat} {u : Txn} (hidle : Idle s) (hvalid : DrawValid s.cfg xs ys xe ye px)
    (hcap : px.length ≤ s.cfg.capPixels.toNat) (hk : (drawTxns s.cfg xs ys xe ye px)[k]? = some u)
    (has : s.answers = List.replicate k Answer.ok ++ .fail :: as) :
    exec (.draw xs ys xe ye px) s =
      .next { s with
        answers := as
        trace := s.trace ++ acceptedEvents ((drawTxns s.cfg xs ys xe ye px).take k) ++ [Event.tx u .fail]
        completions := s.completions ++ [.transportFailure u.cmd (k + 1)]
        convBuf := []
        ctrlDefined := false
        ctrlColumns := none
        ctrlRows := none } := by
  obtain ⟨_, rest, ⟨_, _, _, rfl⟩, hrun⟩ := (drawScript_handsOver hvalid.pixels s).run_reaches hk has .draw 1
  rw [exec_draw_runs hidle hvalid hcap, hrun, run_tx_fail rfl, Nat.add_comm 1 k, finish_draw_fail]
  · rfl
  · exact hidle.2

/-- A DRAW whose answers end early waits at the transaction it has handed over, with those before it emitted (R27, R183). -/
theorem exec_draw_waits {k : Nat} {u : Txn} (hidle : Idle s) (hvalid : DrawValid s.cfg xs ys xe ye px)
    (hcap : px.length ≤ s.cfg.capPixels.toNat) (hk : (drawTxns s.cfg xs ys xe ye px)[k]? = some u)
    (has : s.answers = List.replicate k .ok) :
    ∃ s' rest, Advanced s (acceptedEvents ((drawTxns s.cfg xs ys xe ye px).take k)) [] s' ∧
      exec (.draw xs ys xe ye px) s = .next (s'.waitFor .draw (k + 1) u rest) := by
  have has' : s.answers = List.replicate k Answer.ok ++ [] := by rw [has, List.append_nil]
  obtain ⟨s', rest, hadv, hrun⟩ := (drawScript_handsOver hvalid.pixels s).run_reaches hk has' .draw 1
  have hnone : s'.answers = [] := by obtain ⟨_, _, _, rfl⟩ := hadv; rfl
  exact ⟨s', rest, hadv, by rw [exec_draw_runs hidle hvalid hcap, hrun, run_tx_unanswered hnone, Nat.add_comm 1 k]⟩

/-- A DRAW that has ended emitted its four transactions with OK, or those before a failed one with OK and that one with FAIL
(R164). -/
theorem exec_draw_trace {t : State} (hidle : Idle s) (hvalid : DrawValid s.cfg xs ys xe ye px)
    (hcap : px.length ≤ s.cfg.capPixels.toNat) (hexec : exec (.draw xs ys xe ye px) s = .next t) (hend : t.current = none) :
    t.trace = s.trace ++ acceptedEvents (drawTxns s.cfg xs ys xe ye px) ∨
    ∃ k u, (drawTxns s.cfg xs ys xe ye px)[k]? = some u ∧
      t.trace = s.trace ++ acceptedEvents ((drawTxns s.cfg xs ys xe ye px).take k) ++ [Event.tx u .fail] := by
  obtain ⟨as, has⟩ | ⟨k, hk, has⟩ := answers_cases (drawTxns s.cfg xs ys xe ye px).length s.answers
  · obtain ⟨_, _, _, hok⟩ := exec_draw_ok hidle hvalid hcap has
    injection hexec.symm.trans hok with ht
    exact .inl (by rw [ht])
  · have hu := List.getElem?_eq_getElem hk
    obtain has | ⟨as, has⟩ := has
    · obtain ⟨s', rest, -, hwait⟩ := exec_draw_waits hidle hvalid hcap hu has
      injection hexec.symm.trans hwait with ht
      rw [ht] at hend
      cases hend
    · injection hexec.symm.trans (exec_draw_fail hidle hvalid hcap hu has) with ht
      exact .inr ⟨k, _, hu, by rw [ht]⟩

/-- The coordinates of the window are determined by their sums (R155). -/
theorem drawTxns_eq {c : Configuration} {cs ce rs re : Half} (hvalid : DrawValid c xs ys xe ye px)
    (hcs : cs.toNat = xs.toNat + c.xGap.toNat) (hce : ce.toNat + 1 = xe.toNat + c.xGap.toNat)
    (hrs : rs.toNat = ys.toNat + c.yGap.toNat) (hre : re.toNat + 1 = ye.toNat + c.yGap.toNat) :
    drawTxns c xs ys xe ye px =
      [⟨.color, some 0x2A#8, coord8 cs ce⟩, ⟨.color, some 0x2B#8, coord8 rs re⟩, ⟨.param, some 0x2C#8, []⟩,
        ⟨.color, none, px.flatMap conv⟩] := by
  obtain ⟨hxFirst, hxLast, -⟩ := window_of_valid_axis hvalid.columns hvalid.columnFits
  obtain ⟨hyFirst, hyLast, -⟩ := window_of_valid_axis hvalid.rows hvalid.rowFits
  obtain rfl : cs = windowFirst xs c.xGap := BitVec.eq_of_toNat_eq (by omega)
  obtain rfl : ce = windowLast xe c.xGap := BitVec.eq_of_toNat_eq (by omega)
  obtain rfl : rs = windowFirst ys c.yGap := BitVec.eq_of_toNat_eq (by omega)
  obtain rfl : re = windowLast ye c.yGap := BitVec.eq_of_toNat_eq (by omega)
  rfl

end OnAnIdleEngine

/-! ## The statements about DRAW -/

/-- Settles O16: the four transactions are those of `drawTxns`, and each pixel is three bytes of the payload. -/
theorem validDrawSendsFourTransactions : Obligations.ValidDrawSendsFourTransactions := by
  intro s as xs ys xe ye cs ce rs re px hidle hvalid hcap hcs hce hrs hre has
  obtain ⟨buf, columns, rows, hexec⟩ := exec_draw_ok hidle hvalid hcap has
  rw [drawTxns_eq hvalid hcs hce hrs hre] at hexec
  exact ⟨⟨buf, s.ctrlDefined, columns, rows, hexec⟩, rfl, rfl, hvalid.pixels ▸ convAll_length px⟩

/-- Settles O17: the DRAW comes to the transaction answered FAIL and ends there; answers without a FAIL complete it or leave it
waiting. -/
theorem drawStopsAtTheFirstFailure : Obligations.DrawStopsAtTheFirstFailure := by
  intro s xs ys xe ye cs ce rs re px hidle hvalid hcap hcs hce hrs hre ts hts
  obtain rfl := hts.trans (drawTxns_eq hvalid hcs hce hrs hre).symm
  exact ⟨fun k u as hk has => ⟨_, _, _, exec_draw_fail hidle hvalid hcap hk has⟩,
    fun t hexec hend => exec_draw_trace hidle hvalid hcap hexec hend⟩

/-- Settles O19: over the capacity the request is turned away, at the capacity it is a valid DRAW within it. -/
theorem overCapacityDrawIsTurnedAway : Obligations.OverCapacityDrawIsTurnedAway := by
  intro s xs ys xe ye px hidle hvalid
  refine ⟨exec_draw_overCapacity hidle hvalid, fun hcap as has => ?_⟩
  obtain ⟨_, _, _, hexec⟩ := exec_draw_ok hidle hvalid (hvalid.pixels.trans hcap).le has
  exact ⟨_, hexec, rfl⟩

/-- Settles O20: outside the valid domain there is a reason to refuse. -/
theorem invalidDrawIsRefused : Obligations.InvalidDrawIsRefused := by
  intro s xs ys xe ye px hidle hinvalid
  obtain ⟨r, hr⟩ := Option.ne_none_iff_exists'.mp (mt drawRefusal_eq_none_iff.mp hinvalid)
  exact ⟨r, exec_draw_refused hidle hr⟩

end Sys2Proof.Machine

/-! PROOFS. Errors (spec 60_exceptions.md R207, R208): the three ways in which a request's run stops, said once, and what is left
of a request whose transaction was answered FAIL. -/

namespace Sys2Proof.Machine

/-! ## Events without a failed transaction -/

/-- No transaction among the events was answered FAIL. -/
def NoFail (es : List Event) : Prop := ∀ u, .tx u .fail ∉ es

theorem NoFail.append {es fs : List Event} (hes : NoFail es) (hfs : NoFail fs) : NoFail (es ++ fs) := fun u h =>
  (List.mem_append.mp h).elim (hes u) (hfs u)

theorem not_noFail_of_fail {pre post : List Event} {u : Txn} : ¬NoFail (pre ++ [.tx u .fail] ++ post) := fun h =>
  h u (by simp)

/-- The first FAIL of an event list that ends with it is the only one. -/
theorem eq_of_ends_with_first_fail {pre pre' post : List Event} {u u' : Txn} (hpre : NoFail pre')
    (h : pre' ++ [.tx u' .fail] = pre ++ [.tx u .fail] ++ post) : post = [] ∧ pre = pre' ∧ u = u' := by
  obtain rfl | ⟨post, e, rfl⟩ := List.eq_nil_or_concat' post
  · rw [List.append_nil] at h
    obtain ⟨rfl, hu⟩ := List.append_inj' h rfl
    exact ⟨rfl, rfl, by simpa using hu.symm⟩
  · rw [← List.append_assoc] at h
    obtain ⟨rfl, -⟩ := List.append_inj' h rfl
    exact absurd hpre not_noFail_of_fail

theorem txnsOf_append (es fs : List Event) : txnsOf (es ++ fs) = txnsOf es ++ txnsOf fs := List.filterMap_append

/-! ## How a run stops -/

/-- How the steps of a request, run from `s` at phase `p`, stop in `t`: all answered OK so far and waiting, all answered OK and
complete, or ended at once by the first FAIL with its command and its phase (R27, R183, R207, R221). -/
inductive Stops (p : Nat) (s t : State) : Prop where
  | waiting {es : List Event} (htrace : t.trace = s.trace ++ es) (hok : NoFail es) (hcurrent : t.current ≠ none)
      (hcomp : t.completions = s.completions)
  | complete {es : List Event} (htrace : t.trace = s.trace ++ es) (hok : NoFail es) (hcurrent : t.current = none)
      (hcomp : t.completions = s.completions ++ [.ok])
  | aborted {pre : List Event} {u : Txn} (htrace : t.trace = s.trace ++ (pre ++ [.tx u .fail])) (hok : NoFail pre)
      (hcurrent : t.current = none)
      (hcomp : t.completions = s.completions ++ [.transportFailure u.cmd (p + (txnsOf pre).length)])

/-- A run that first emits the events `es` and completes nothing goes on at the phase after their transactions. -/
theorem Stops.after {p : Nat} {s s' t : State} (es : List Event) (hes : NoFail es) (htr : s'.trace = s.trace ++ es)
    (hco : s'.completions = s.completions) (h : Stops (p + (txnsOf es).length) s' t) : Stops p s t := by
  cases h with
  | waiting htrace hok hcurrent hcomp =>
    exact .waiting (by rw [htrace, htr, List.append_assoc]) (hes.append hok) hcurrent (hcomp.trans hco)
  | complete htrace hok hcurrent hcomp =>
    exact .complete (by rw [htrace, htr, List.append_assoc]) (hes.append hok) hcurrent (by rw [hcomp, hco])
  | aborted htrace hok hcurrent hcomp =>
    refine .aborted (by rw [htrace, htr, List.append_assoc, List.append_assoc]) (hes.append hok) hcurrent ?_
    rw [hcomp, hco, txnsOf_append, List.length_append, Nat.add_assoc]

/-- Every run of a request's steps stops in one of the three ways. -/
theorem run_stops {k : OpKind} (hk : k ≠ .bare) (p : Nat) (acts : List Action) (s : State) :
    Stops p s (run k p acts s) := by
  induction acts generalizing p s with
  | nil => exact .complete (es := []) (by simp) nofun (by simp) (by simp [hk])
  | cons a acts ih =>
    have htx (t : Txn) : Stops p s (run k p (.tx t :: acts) s) := by
      rw [run_tx]
      obtain ⟨-, hrun⟩ | ⟨as, -, hrun⟩ | ⟨as, -, hrun⟩ := attempt_cases k p t acts (run k (p + 1) acts) s
      · rw [hrun]
        exact .waiting (es := []) (by simp) nofun (by simp) (by simp)
      · rw [hrun]
        exact (ih (p + 1) (s.accepted t as)).after [.tx t .ok] (by simp [NoFail]) (by simp) (by simp)
      · rw [hrun]
        exact .aborted (pre := []) (u := t) (by simp) nofun (by simp) (by simp [hk])
    cases a with
    | tx t => exact htx t
    | txScratch n => exact htx (payloadTxn (scratchBytes s n))
    | rst l => exact (ih p (s.driveReset l)).after [.rst l] (by simp [NoFail]) (by simp) (by simp)
    | delay ms => exact (ih p (s.emit (.delay ms))).after [.delay ms] (by simp [NoFail]) (by simp) (by simp)
    | convert px => exact (ih p (s.convertPixels px)).after [] nofun (by simp) (by simp)
    | setMadctl m => exact (ih p { s with madctl := m }).after [] nofun (by simp) (by simp)

/-! ## What a request's steps are -/

theorem Starts.ne_bare {s : State} {i : Instr} {k : OpKind} {acts : List Action} (h : Starts s i k acts) :
    k ≠ .bare := by
  cases h <;> decide

/-- A request's steps never write MADCTL, or are one mode transmission (R23). -/
theorem Starts.writes_no_mode_or_eq_modeScript {s : State} {i : Instr} {k : OpKind} {acts : List Action}
    (h : Starts s i k acts) : (∀ m, .setMadctl m ∉ acts) ∨ ∃ m, acts = modeScript m := by
  cases h with
  | setMirror x y => exact .inr ⟨_, rfl⟩
  | setSwapAxes sw => exact .inr ⟨_, rfl⟩
  | reset => exact .inl fun m => by unfold resetScript; split <;> simp
  | init => exact .inl fun m => by simp [initScript]
  | draw => exact .inl fun m => by simp [drawScript]
  | invertColor => exact .inl fun m => by simp
  | displayPower => exact .inl fun m => by simp

/-- A request that ends with TRANSPORT_FAILURE leaves MADCTL as it found it (R208). -/
theorem Starts.madctl_of_aborted {s : State} {i : Instr} {k : OpKind} {acts : List Action} {cmd : Option Byte}
    {phase : Nat} (h : Starts s i k acts) (hend : (run k 1 acts s).current = none)
    (hfail : (run k 1 acts s).completions = s.completions ++ [.transportFailure cmd phase]) :
    (run k 1 acts s).madctl = s.madctl := by
  obtain hnone | ⟨m, rfl⟩ := h.writes_no_mode_or_eq_modeScript
  · exact (run_madctl k 1 acts s).resolve_right (hnone _)
  · exact run_modeScript_rollsBack h.ne_bare hend hfail

/-! ## The statements about errors -/

/-- Settles O47: an over-capacity DRAW writes no register, and of the three ways to stop only the abort at a FAIL adds an error
completion. -/
theorem errorsLeaveMadctlAlone : Obligations.ErrorsLeaveMadctlAlone := by
  intro i s t c hi _ hexec hcomp hc
  obtain ⟨-, ⟨-, rfl⟩ | ⟨k, acts, hstart, rfl⟩⟩ := exec_request_next hi hexec
  · exact ⟨rfl, rfl⟩
  · refine ⟨?_, run_cfg k 1 acts s⟩
    cases run_stops hstart.ne_bare 1 acts s with
    | waiting _ _ _ hsame => simp [hsame] at hcomp
    | complete _ _ _ hok => exact absurd (by simpa using hcomp.symm.trans hok) hc
    | aborted _ _ hend hfail => exact hstart.madctl_of_aborted hend hfail

/-- Settles O49: of the three ways to stop only the abort leaves a FAIL in the trace, as its last event. -/
theorem nothingFollowsAFailedTransaction : Obligations.NothingFollowsAFailedTransaction := by
  intro i s t pre post u hi hidle hexec htr
  have hevents {es : List Event} (h : t.trace = s.trace ++ es) : es = pre ++ [.tx u .fail] ++ post :=
    List.append_cancel_left (as := s.trace) (by rw [← h, htr]; simp)
  obtain ⟨-, ⟨-, rfl⟩ | ⟨k, acts, hstart, rfl⟩⟩ := exec_request_next hi hexec
  · have hnil := hevents (List.append_nil s.trace).symm
    simp at hnil
  · cases run_stops hstart.ne_bare 1 acts s with
    | waiting htrace hok => exact absurd (hevents htrace ▸ hok) not_noFail_of_fail
    | complete htrace hok => exact absurd (hevents htrace ▸ hok) not_noFail_of_fail
    | aborted htrace hok hend hfail =>
      obtain ⟨rfl, rfl, rfl⟩ := eq_of_ends_with_first_fail hok (hevents htrace)
      have halive : (run k 1 acts s).alive = true := (run_alive k 1 acts s).trans hidle.1
      exact ⟨rfl, ⟨halive, hend⟩, hstart.madctl_of_aborted hend hfail, run_cfg k 1 acts s, by rw [hfail, Nat.add_comm]⟩

end Sys2Proof.Machine

/-! PROOFS. The decoder and the encoder (spec 30_encoding.md): every well-formed instruction is read back from its frame, a frame
that decodes is the encoding of what it decodes to, and a header outside the table of R72 is refused. -/

namespace Sys2Proof.Machine

/-! ## From an instruction to its frame and back -/

/-- Settles O1: constructor by constructor, the laws of the family RoundTrip. -/
theorem roundTripOfEveryInstruction : Obligations.RoundTripOfEveryInstruction := by
  intro i
  cases i with
  | reset => exact Laws.RoundTrip.reset
  | init => exact Laws.RoundTrip.init
  | draw xs ys xe ye px => exact Laws.RoundTrip.draw xs ys xe ye px
  | setMirror x y => exact Laws.RoundTrip.setMirror x y
  | setSwapAxes sw => exact Laws.RoundTrip.setSwapAxes sw
  | invertColor on => exact Laws.RoundTrip.invertColor on
  | displayPower on => exact Laws.RoundTrip.displayPower on
  | swreset => exact Laws.RoundTrip.swreset
  | slpout => exact Laws.RoundTrip.slpout
  | invoff => exact Laws.RoundTrip.invoff
  | invon => exact Laws.RoundTrip.invon
  | dispoff => exact Laws.RoundTrip.dispoff
  | dispon => exact Laws.RoundTrip.dispon
  | caset a b => exact Laws.RoundTrip.caset a b
  | raset a b => exact Laws.RoundTrip.raset a b
  | ramwr => exact Laws.RoundTrip.ramwr
  | madctl m => exact Laws.RoundTrip.madctl m
  | pixfmt => exact Laws.RoundTrip.pixfmt
  | vendorB0 d => exact Laws.RoundTrip.vendorB0 d
  | vendorB1 d => exact Laws.RoundTrip.vendorB1 d
  | vendorB4 d => exact Laws.RoundTrip.vendorB4 d
  | vendorB6 d => exact Laws.RoundTrip.vendorB6 d
  | vendorB7 d => exact Laws.RoundTrip.vendorB7 d
  | vendorC0 d => exact Laws.RoundTrip.vendorC0 d
  | vendorC1 d => exact Laws.RoundTrip.vendorC1 d
  | vendorC5 d => exact Laws.RoundTrip.vendorC5 d
  | vendorE0 d => exact Laws.RoundTrip.vendorE0 d
  | vendorE1 d => exact Laws.RoundTrip.vendorE1 d
  | payload d => exact Laws.RoundTrip.payload d

/-- Settles O3: each frame is decoded by evaluation. -/
theorem framesOfTheSpecDecode : Obligations.FramesOfTheSpecDecode :=
  ⟨rfl, rfl, rfl, rfl, rfl, rfl, rfl, rfl, rfl, rfl, rfl, rfl⟩

/-! ## The request headers -/

/-- The operation select and the unused bits at zero leave a header no freedom but its boolean operands (R72). -/
theorem header_of_select (h : Byte) :
    ((h.extractLsb' 4 4).toNat = 0 → h &&& 0x0F#8 = 0#8 → h = 0x00#8) ∧
    ((h.extractLsb' 4 4).toNat = 1 → h &&& 0x0F#8 = 0#8 → h = 0x10#8) ∧
    ((h.extractLsb' 4 4).toNat = 2 → h &&& 0x0F#8 = 0#8 → h = 0x20#8) ∧
    ((h.extractLsb' 4 4).toNat = 3 → h &&& 0x0C#8 = 0#8 →
      h = 0x30#8 ||| boolBit (h.getLsbD 1) 1 ||| boolBit (h.getLsbD 0) 0) ∧
    ((h.extractLsb' 4 4).toNat = 4 → h &&& 0x0E#8 = 0#8 → h = 0x40#8 ||| boolBit (h.getLsbD 0) 0) ∧
    ((h.extractLsb' 4 4).toNat = 5 → h &&& 0x0E#8 = 0#8 → h = 0x50#8 ||| boolBit (h.getLsbD 0) 0) ∧
    ((h.extractLsb' 4 4).toNat = 6 → h &&& 0x0E#8 = 0#8 → h = 0x60#8 ||| boolBit (h.getLsbD 0) 0) := by
  revert h
  decide


/-- A request without operand values decodes only with its unused header bits at zero (R72). -/
theorem plainRequest_ok {f : ReqFrame} {unused : Byte} {i j : Instr} (h : plainRequest f unused i = .ok j) :
    f.header &&& unused = 0#8 ∧ f.words = [] ∧ i = j := by
  unfold plainRequest at h
  split_ifs at h with hbits hwords
  exact ⟨not_not.mp hbits, not_not.mp hwords, by simpa using h⟩

/-- DRAW decodes only with its unused header bits at zero and its four coordinates (R72). -/
theorem drawRequest_ok {f : ReqFrame} {j : Instr} (h : drawRequest f = .ok j) :
    f.header &&& 0x0F#8 = 0#8 ∧
      ∃ xs ys xe ye px, f.words = xs :: ys :: xe :: ye :: px ∧ .draw xs ys xe ye px = j := by
  unfold drawRequest at h
  split_ifs at h with hbits
  split at h
  · rename_i hwords
    exact ⟨not_not.mp hbits, _, _, _, _, _, hwords, by simpa using h⟩
  · cases h

/-- A request frame that decodes is the encoding of its request (R72, R74, R75). -/
theorem encode_of_decodeRequest {f : ReqFrame} {i : Instr} (h : decodeRequest f = .ok i) : encode i = .req f := by
  obtain ⟨header, words⟩ := f
  obtain ⟨hreset, hinit, hdraw, hmirror, hswap, hinvert, hpower⟩ := header_of_select header
  unfold decodeRequest at h
  split at h
  case h_1 hsel => obtain ⟨hbits, rfl, rfl⟩ := plainRequest_ok h; rw [encode, hreset hsel hbits]
  case h_2 hsel => obtain ⟨hbits, rfl, rfl⟩ := plainRequest_ok h; rw [encode, hinit hsel hbits]
  case h_3 hsel =>
    obtain ⟨hbits, xs, ys, xe, ye, px, rfl, rfl⟩ := drawRequest_ok h
    rw [encode, hdraw hsel hbits]
  case h_4 hsel => obtain ⟨hbits, rfl, rfl⟩ := plainRequest_ok h; rw [encode, ← hmirror hsel hbits]
  case h_5 hsel => obtain ⟨hbits, rfl, rfl⟩ := plainRequest_ok h; rw [encode, ← hswap hsel hbits]
  case h_6 hsel => obtain ⟨hbits, rfl, rfl⟩ := plainRequest_ok h; rw [encode, ← hinvert hsel hbits]
  case h_7 hsel => obtain ⟨hbits, rfl, rfl⟩ := plainRequest_ok h; rw [encode, ← hpower hsel hbits]
  case h_8 => cases h

/-- The header of a request's encoding is in the table of R72. -/
theorem header_mem_of_encode {i : Instr} {f : ReqFrame} (h : encode i = .req f) : f.header ∈ requestHeaders := by
  cases i with
  | reset => cases h; decide
  | init => cases h; decide
  | draw => cases h; simp [requestHeaders]
  | setMirror x y => cases h; cases x <;> cases y <;> decide
  | setSwapAxes sw => cases h; cases sw <;> decide
  | invertColor on => cases h; cases on <;> decide
  | displayPower on => cases h; cases on <;> decide
  | _ => cases h

/-! ## The wire rows -/

/-- The row of a vendor command is encoded as its transaction (R88). -/
theorem encode_vendorInstr (v : VendorCmd) (d : List Byte) :
    encode (vendorInstr v d) = .txn (wireTxn (.vendor v) d) := by
  cases v <;> rfl

/-- The row of a command with its data is encoded as that command's transaction (R80). -/
theorem encode_of_commandInstr {c : Command} {d : List Byte} {i : Instr} (h : commandInstr c d = some i) :
    encode i = .txn (wireTxn c d) := by
  unfold commandInstr at h
  split at h
  case h_9 =>
    split_ifs at h with hb
    cases h
    rw [hb]
    rfl
  case h_10 => obtain ⟨w, hw, rfl⟩ := Option.map_eq_some_iff.mp h; rw [encode, coord8_of_parseCoord8 hw]
  case h_11 => obtain ⟨w, hw, rfl⟩ := Option.map_eq_some_iff.mp h; rw [encode, coord8_of_parseCoord8 hw]
  case h_12 => cases h; exact encode_vendorInstr _ _
  all_goals cases h <;> rfl

/-- A transaction that decodes is a row of its command, with the command's kind, or the payload (R76, R77, R80, R87). -/
theorem decodeTxn_ok {u : Txn} {i : Instr} (h : decodeTxn u = .ok i) :
    (∃ c, u = wireTxn c u.data ∧ commandInstr c u.data = some i) ∨ (u = payloadTxn u.data ∧ i = .payload u.data) := by
  obtain ⟨kind, cmd, data⟩ := u
  unfold decodeTxn at h
  split at h
  · rename_i b hcmd
    obtain rfl : cmd = some b := hcmd
    unfold decodeCommand at h
    split at h
    · cases h
    · rename_i c hc
      obtain rfl := commandByte_of_commandOfByte hc
      split_ifs at h with hkind
      obtain rfl : kind = commandKind c := hkind
      split at h
      · rename_i j hj
        exact .inl ⟨c, rfl, hj.trans (congrArg some (by simpa using h))⟩
      · cases h
  · rename_i hcmd
    obtain rfl : cmd = none := hcmd
    split_ifs at h with hform
    obtain ⟨rfl : kind = .color, -⟩ := hform
    exact .inr ⟨rfl, by simpa using h.symm⟩

/-- A transaction that decodes is the encoding of its row. -/
theorem encode_of_decodeTxn {u : Txn} {i : Instr} (h : decodeTxn u = .ok i) : encode i = .txn u := by
  obtain ⟨c, hu, hi⟩ | ⟨hu, rfl⟩ := decodeTxn_ok h
  · rw [hu, encode_of_commandInstr hi]
  · rw [hu]; rfl

/-- Settles O2: a request frame and a transaction are each the encoding of what they decode to. -/
theorem decodedFramesReencode : Obligations.DecodedFramesReencode := by
  intro f i h
  cases f with
  | req f => exact encode_of_decodeRequest h
  | txn u => exact encode_of_decodeTxn h

/-! ## Reserved headers -/

/-- A header outside the table of R72 is reserved whatever the operands: were its unused bits zero, it would stand in the
table (R74). -/
theorem decodeRequest_reserved {f : ReqFrame} (h : f.header ∉ requestHeaders) :
    decodeRequest f = .rejected (.reservedHeader f.header) := by
  obtain ⟨hreset, hinit, hdraw, hmirror, hswap, hinvert, hpower⟩ := header_of_select f.header
  have hnot {i : Instr} {f' : ReqFrame} (hi : encode i = .req f') : f.header ≠ f'.header := fun he =>
    h (he ▸ header_mem_of_encode hi)
  unfold decodeRequest
  split
  case h_1 hsel => exact if_pos fun hbits => hnot (i := .reset) rfl (hreset hsel hbits)
  case h_2 hsel => exact if_pos fun hbits => hnot (i := .init) rfl (hinit hsel hbits)
  case h_3 hsel => exact if_pos fun hbits => hnot (i := .draw 0 0 0 0 []) rfl (hdraw hsel hbits)
  case h_4 hsel => exact if_pos fun hbits => hnot (i := .setMirror _ _) rfl (hmirror hsel hbits)
  case h_5 hsel => exact if_pos fun hbits => hnot (i := .setSwapAxes _) rfl (hswap hsel hbits)
  case h_6 hsel => exact if_pos fun hbits => hnot (i := .invertColor _) rfl (hinvert hsel hbits)
  case h_7 hsel => exact if_pos fun hbits => hnot (i := .displayPower _) rfl (hpower hsel hbits)
  case h_8 => rfl

/-- Settles O4: the step decodes the request it was asked, and the decoder rejects the header. -/
theorem reservedHeadersAreRefused : Obligations.ReservedHeadersAreRefused := by
  intro s f more ⟨halive, hcurrent⟩ hcaller hheader
  rw [step_request hcurrent hcaller, decode, decodeRequest_reserved hheader, runDecoded, if_pos halive, decodeRefusal]

end Sys2Proof.Machine

/-! PROOFS. Running an operation by one rule (spec 10_state.md R27, 43_transport_adapter.md R183, 60_exceptions.md R221): what every
request and every step does to the configuration, the trace, the answers and the completions. -/

namespace Sys2Proof.Machine

/-! ## The rule of a run -/

/-- What has to be shown of a run: `P` of the phase, the state and the steps left is kept by each step, and gives `Q` of the state
where the run stops. -/
structure RunRule (k : OpKind) (P : Nat → State → List Action → Prop) (Q : State → Prop) : Prop where
  ends : ∀ {p s}, P p s [] → Q (s.finish k .ok)
  waits : ∀ {p s t r}, P p s (.tx t :: r) → s.answers = [] → Q (s.waitFor k p t r)
  accepts : ∀ {p s t r as}, P p s (.tx t :: r) → s.answers = .ok :: as → P (p + 1) (s.accepted t as) r
  fails : ∀ {p s t r as}, P p s (.tx t :: r) → s.answers = .fail :: as →
    Q ((s.failed t as).finish k (.transportFailure t.cmd p))
  payload : ∀ {p s n r}, P p s (.txScratch n :: r) → P p s (.tx (payloadTxn (scratchBytes s n)) :: r)
  rst : ∀ {p s l r}, P p s (.rst l :: r) → P p (s.driveReset l) r
  delay : ∀ {p s ms r}, P p s (.delay ms :: r) → P p (s.emit (.delay ms)) r
  convert : ∀ {p s px r}, P p s (.convert px :: r) → P p (s.convertPixels px) r
  mode : ∀ {p s m r}, P p s (.setMadctl m :: r) → P p { s with madctl := m } r

/-- A run that starts with `P` stops with `Q`. -/
theorem RunRule.run {k : OpKind} {P : Nat → State → List Action → Prop} {Q : State → Prop} (rule : RunRule k P Q) {p : Nat}
    {s : State} {acts : List Action} (h : P p s acts) : Q (run k p acts s) := by
  induction acts generalizing p s with
  | nil => exact rule.ends h
  | cons a acts ih =>
    have htx {t : Txn} (h : P p s (.tx t :: acts)) : Q (Machine.run k p (.tx t :: acts) s) := by
      rw [run_tx]
      obtain ⟨has, hrun⟩ | ⟨as, has, hrun⟩ | ⟨as, has, hrun⟩ := attempt_cases k p t acts (Machine.run k (p + 1) acts) s
      · rw [hrun]; exact rule.waits h has
      · rw [hrun]; exact ih (rule.accepts h has)
      · rw [hrun]; exact rule.fails h has
    cases a with
    | tx t => exact htx h
    | txScratch n => exact htx (rule.payload h)
    | rst l => exact ih (rule.rst h)
    | delay ms => exact ih (rule.delay h)
    | convert px => exact ih (rule.convert h)
    | setMadctl m => exact ih (rule.mode h)

/-! ## What every run does -/

/-- A run stops in the middle only when it is out of answers (R183). -/
theorem run_answers_of_waiting {k : OpKind} {p : Nat} {acts : List Action} {s : State}
    (h : (run k p acts s).current ≠ none) : (run k p acts s).answers = [] :=
  RunRule.run (P := fun _ _ _ => True) (Q := fun t => t.current ≠ none → t.answers = [])
    { ends := fun _ hc => absurd (finish_current ..) hc
      waits := fun _ has _ => has
      accepts := fun _ _ => trivial
      fails := fun _ _ hc => absurd (finish_current ..) hc
      payload := fun _ => trivial
      rst := fun _ => trivial
      delay := fun _ => trivial
      convert := fun _ => trivial
      mode := fun _ => trivial } trivial h

/-- The completions `new` are the completions `old`, or those and one more. -/
def AtMostOneMore (old new : List Completion) : Prop := new = old ∨ ∃ c, new = old ++ [c]

/-- The end of an operation adds at most its completion (R221). -/
theorem atMostOneMore_finish (s : State) (k : OpKind) (c : Completion) :
    AtMostOneMore s.completions (s.finish k c).completions := by
  rw [finish_completions]
  split
  · exact .inl rfl
  · exact .inr ⟨c, rfl⟩

/-- A run adds at most one completion (R221). -/
theorem run_atMostOneMore (k : OpKind) (p : Nat) (acts : List Action) (s : State) :
    AtMostOneMore s.completions (run k p acts s).completions :=
  RunRule.run (P := fun _ s' _ => s'.completions = s.completions) (Q := fun t => AtMostOneMore s.completions t.completions)
    { ends := fun h => h ▸ atMostOneMore_finish ..
      waits := fun h _ => .inl h
      accepts := fun h _ => by rwa [accepted_completions]
      fails := fun h _ => h ▸ atMostOneMore_finish (State.failed _ _ _) ..
      payload := id
      rst := id
      delay := id
      convert := id
      mode := id } rfl

/-- `t` comes after `s`: it has emitted further events, and their transactions carry the answers consumed in between. -/
def Consumes (s t : State) : Prop :=
  ∃ es, t.trace = s.trace ++ es ∧ s.answers = (txnsOf es).map Prod.snd ++ t.answers

/-- Every transaction of a run consumes the next answer and carries it in the trace (R183). -/
theorem run_consumes (k : OpKind) (p : Nat) (acts : List Action) (s : State) : Consumes s (run k p acts s) := by
  have hanswer {s' : State} {t : Txn} {a : Answer} {as : List Answer} (has : s'.answers = a :: as) :
      Consumes s s' → ∃ es, s'.trace ++ [.tx t a] = s.trace ++ es ∧ s.answers = (txnsOf es).map Prod.snd ++ as := by
    rintro ⟨es, htr, hans⟩
    exact ⟨es ++ [.tx t a], by rw [htr, List.append_assoc], by simp [hans, has, txnsOf_append]⟩
  have hquiet {s' : State} {e : Event} (he : txnsOf [e] = []) :
      Consumes s s' → ∃ es, s'.trace ++ [e] = s.trace ++ es ∧ s.answers = (txnsOf es).map Prod.snd ++ s'.answers := by
    rintro ⟨es, htr, hans⟩
    exact ⟨es ++ [e], by rw [htr, List.append_assoc], by rw [txnsOf_append, he, List.append_nil, hans]⟩
  exact run_preserves (P := Consumes s) (fun _ _ _ _ h => h)
    (fun _ _ _ has h => by simpa [Consumes] using hanswer has h) (fun _ _ _ has h => by simpa [Consumes] using hanswer has h)
    (fun _ _ h => by simpa [Consumes] using h) (fun _ _ h => hquiet rfl h) (fun _ _ h => hquiet rfl h)
    (fun _ _ h => h) (fun _ _ h => h) acts p s ⟨[], by simp, by simp⟩

/-! ## Every instruction and every step -/

/-- An instruction that answers a next state ran some steps, or turned a DRAW away. -/
theorem exec_next {i : Instr} {s t : State} (h : exec i s = .next t) :
    t = sizeLimit s ∨ ∃ k p acts, t = run k p acts s := by
  cases hi : isRequest i with
  | true =>
    obtain ⟨-, ⟨-, rfl⟩ | ⟨k, acts, -, rfl⟩⟩ := exec_request_next hi h
    · exact .inl rfl
    · exact .inr ⟨k, 1, acts, rfl⟩
  | false =>
    obtain ⟨u, hu⟩ := encode_wire hi
    rw [exec_of_encode_txn hu] at h
    obtain ⟨-, ⟨-, rfl⟩ | ⟨op, -, -, rfl⟩⟩ := transmit_next h
    · exact .inr ⟨_, _, _, rfl⟩
    · exact .inr ⟨_, _, _, rfl⟩

/-- A step that answers a next state executed an instruction, with the caller's stream advanced at most, or left the outputs and
the configuration alone. -/
theorem step_next_exec {s t : State} (h : step s = .next t) :
    (∃ i more, exec i { s with caller := more } = .next t) ∨
      (t.cfg = s.cfg ∧ t.trace = s.trace ∧ t.completions = s.completions) := by
  obtain ⟨op, i, -, -, hexec⟩ | ⟨-, -, rfl⟩ | ⟨f, more, i, -, -, -, hexec⟩ | ⟨more, -, -, -, rfl⟩ := step_next h
  · exact .inl ⟨i, s.caller, hexec⟩
  · exact .inr ⟨rfl, rfl, rfl⟩
  · exact .inl ⟨i, more, hexec⟩
  · exact .inr ⟨rfl, rfl, rfl⟩

theorem exec_cfg {i : Instr} {s t : State} (h : exec i s = .next t) : t.cfg = s.cfg := by
  obtain rfl | ⟨k, p, acts, rfl⟩ := exec_next h
  · rfl
  · exact run_cfg ..

/-- Settles O45: an instruction is a run, and no run writes the configuration. -/
theorem configurationNeverChanges : Obligations.ConfigurationNeverChanges := by
  refine ⟨fun _ _ _ => exec_cfg, fun s t h => ?_⟩
  obtain ⟨i, more, hexec⟩ | ⟨hcfg, -, -⟩ := step_next_exec h
  · exact (exec_cfg hexec).trans rfl
  · exact hcfg

/-- Settles O48: an instruction is a run, which only appends events and ends at most one operation. -/
theorem traceOnlyGrows : Obligations.TraceOnlyGrows := by
  intro s t h
  obtain ⟨i, more, hexec⟩ | ⟨-, htr, hco⟩ := step_next_exec h
  · obtain rfl | ⟨k, p, acts, rfl⟩ := exec_next hexec
    · exact ⟨⟨[], (List.append_nil _).symm⟩, .inr ⟨_, rfl⟩⟩
    · obtain ⟨es, hes⟩ := run_trace_grows k p acts { s with caller := more }
      exact ⟨⟨es, hes.symm⟩, run_atMostOneMore k p acts { s with caller := more }⟩
  · exact ⟨⟨[], by rw [htr, List.append_nil]⟩, .inl hco⟩

/-- Settles O50: of the three ways in which a run stops, two add a completion and end it, and the third waits, out of answers. -/
theorem oneCompletionPerRequest : Obligations.OneCompletionPerRequest := by
  intro i s t hi hidle h
  obtain ⟨-, ⟨-, rfl⟩ | ⟨k, acts, hstart, rfl⟩⟩ := exec_request_next hi h
  · exact .inl ⟨hidle.2, _, rfl⟩
  · cases run_stops hstart.ne_bare 1 acts s with
    | waiting _ _ hcurrent hcomp =>
      exact .inr ⟨Option.ne_none_iff_exists'.mp hcurrent, hcomp, run_answers_of_waiting hcurrent⟩
    | complete _ _ hcurrent hcomp => exact .inl ⟨hcurrent, _, hcomp⟩
    | aborted _ _ hcurrent hcomp => exact .inl ⟨hcurrent, _, hcomp⟩

/-- Settles O51: a request is a run, or turned away without an event. -/
theorem oneAnswerPerTransaction : Obligations.OneAnswerPerTransaction := by
  intro i s t _ _ h
  obtain rfl | ⟨k, p, acts, rfl⟩ := exec_next h
  · exact ⟨[], (List.append_nil _).symm, rfl⟩
  · exact run_consumes k p acts s

end Sys2Proof.Machine

/-! PROOFS. The invariant (spec 10_state.md R24, R25, R27, R31, R32): the steps that a request starts are sound, running sound steps
leaves the invariant, and so every step keeps it and emits only rows of the wire opcode map. -/

namespace Sys2Proof.Machine

/-! ## Transactions that are rows of the table -/

/-- A command with data of its form is a row of the table (R80). -/
theorem emittable_wireTxn {c : Command} {d : List Byte} {i : Instr} (h : commandInstr c d = some i) :
    Emittable (wireTxn c d) :=
  ⟨i, by rw [decode_wireTxn, h]⟩

/-- Converted pixels have the form of a payload (R94, R161). -/
theorem pixelBytesOk_convAll (px : List Half) : pixelBytesOk (convAll px) = true := by
  induction px with
  | nil => rfl
  | cons p px ih =>
    have hcons : convAll (p :: px) = conv p ++ convAll px := rfl
    obtain ⟨-, hr, -⟩ := fiveBitChannel_facts (p.extractLsb' 11 5)
    obtain ⟨-, hg, -⟩ := sixBitChannel_facts (p.extractLsb' 5 6)
    obtain ⟨-, hb, -⟩ := fiveBitChannel_facts (p.extractLsb' 0 5)
    simp [hcons, conv, pixelBytesOk, hr, hg, hb, ih]

/-- The payload of at least one pixel is a row of the table (R87, R162). -/
theorem emittable_payload {px : List Half} (h : px ≠ []) : Emittable (payloadTxn (convAll px)) := by
  have hne : convAll px ≠ [] := by
    rw [← List.length_pos_iff, convAll_length]
    have := List.length_pos_iff.mpr h
    omega
  exact ⟨_, Laws.RoundTrip.payload (convAll px) (by simp [Instr.wellFormed, hne, pixelBytesOk_convAll])⟩

/-- What a transaction that is a row of the table looks like (R77, R80). -/
theorem Emittable.cases {u : Txn} (h : Emittable u) : (∃ c d, u = wireTxn c d) ∨ ∃ d, u = payloadTxn d := by
  obtain ⟨i, hi⟩ := h
  obtain ⟨c, hu, -⟩ | ⟨hu, -⟩ := decodeTxn_ok hi
  · exact .inl ⟨c, _, hu⟩
  · exact .inr ⟨_, hu⟩

/-! ## The mode value last sent -/

/-- Only the mode command sends a mode value (R84). -/
theorem modeAfterTxn_wireTxn {c : Command} (h : c ≠ .madctl) (d : List Byte) (m : Byte) :
    modeAfterTxn (wireTxn c d) m = m := by
  have hbyte : commandByte c ≠ 0x36#8 := fun he => h (commandByte_injective he)
  obtain _ | ⟨v, _ | ⟨w, d⟩⟩ := d
  · rfl
  · exact if_neg hbyte
  · rfl

/-- Since `s`, where `sent` was the mode value last sent, `t` has emitted only rows of the table, and `m` is now the mode value last
sent (R25, R80). -/
def EmittedSince (s : State) (sent : Byte) (t : State) (m : Byte) : Prop :=
  ∃ es, t.trace = s.trace ++ es ∧ (∀ u a, .tx u a ∈ es → Emittable u) ∧ es.foldl modeAfter sent = m

theorem EmittedSince.refl (s : State) (sent : Byte) : EmittedSince s sent s sent :=
  ⟨[], (List.append_nil _).symm, nofun, rfl⟩

/-- One more event. -/
theorem EmittedSince.snoc {s t t' : State} {sent m : Byte} {e : Event} (h : EmittedSince s sent t m)
    (htr : t'.trace = t.trace ++ [e]) (he : ∀ u a, e = .tx u a → Emittable u) :
    EmittedSince s sent t' (modeAfter m e) := by
  obtain ⟨es, hes, hem, hm⟩ := h
  refine ⟨es ++ [e], by rw [htr, hes, List.append_assoc], fun u a hu => ?_, by rw [List.foldl_concat, hm]⟩
  obtain hu | hu := List.mem_append.mp hu
  · exact hem u a hu
  · exact he u a (List.mem_singleton.mp hu).symm

/-- The mode value last sent, once the events since `s` are added (R25). -/
theorem EmittedSince.lastSentMode {s t : State} {m : Byte} (h : EmittedSince s (lastSentMode s) t m)
    (hcfg : t.cfg = s.cfg) : Machine.lastSentMode t = m := by
  obtain ⟨es, hes, -, hm⟩ := h
  rw [Machine.lastSentMode, hes, hcfg, List.foldl_append]
  exact hm

/-! ## What a request starts is sound -/

/-- A command that sends no mode value is a sound step where the two mode values agree. -/
theorem sound_wireTxn {c : Configuration} {k : OpKind} {m : Byte} {buf : Memory} {r : List Action} {cmd : Command}
    {d : List Byte} {i : Instr} (hcmd : cmd ≠ .madctl) (hi : commandInstr cmd d = some i) (h : Sound c k m m buf r) :
    Sound c k m m buf (.tx (wireTxn cmd d) :: r) :=
  ⟨rfl, emittable_wireTxn hi, by rwa [modeAfterTxn_wireTxn hcmd]⟩

/-- The vendor rows of INIT are sound steps (R88). -/
theorem sound_vendorRows {c : Configuration} {k : OpKind} {m : Byte} {buf : Memory} {r : List Action}
    (h : Sound c k m m buf r) (v : List VendorEntry) :
    Sound c k m m buf (v.map (fun e => .tx (vendorTxn e)) ++ r) := by
  induction v with
  | nil => exact h
  | cons e v ih => exact sound_wireTxn (by simp) rfl ih

/-- The window of DRAW is a row of the table. -/
theorem commandInstr_window (s e : Half) :
    commandInstr .caset (coord8 s e) = some (.caset s e) ∧ commandInstr .raset (coord8 s e) = some (.raset s e) := by
  simp [commandInstr]

/-- The steps of a request are sound from the MADCTL it finds, if its fixed bits are right, whatever stands in CONV_BUF. -/
theorem Starts.sound {s : State} {i : Instr} {k : OpKind} {acts : List Action} (h : Starts s i k acts) {c : Configuration}
    (hcap : c.capPixels = s.cfg.capPixels) (hfixed : fixedBits s.madctl = fixedBits c.madctlDefault) :
    Sound c k s.madctl s.madctl s.convBuf acts := by
  cases h with
  | reset =>
    unfold resetScript
    split <;> rfl
  | init =>
    have hmode : Sound c .init s.madctl s.madctl s.convBuf
        [.tx (wireTxn .madctl [s.madctl]), .tx (wireTxn .dispon []), .delay 20] :=
      ⟨rfl, emittable_wireTxn rfl, sound_wireTxn (by decide) rfl rfl⟩
    unfold initScript
    rw [List.append_assoc]
    exact sound_wireTxn (by decide) rfl
      (sound_wireTxn (by decide) rfl (sound_vendorRows (sound_wireTxn (by decide) rfl hmode) _))
  | @draw xs ys xe ye px hvalid hfits =>
    have hv := drawRefusal_eq_none_iff.mp hvalid
    have hlen : px.length = pixelCount xs ys xe ye := hv.pixels
    have hpos : 0 < px.length := hlen ▸ (pixelCountOfAValidDraw _ _ _ _ _ _ hv).2.1
    have hread : ∀ a < 3 * pixelCount xs ys xe ye,
        readByte (writeBytes s.convBuf 0 (convAll px)) a = (convAll px)[a]? := fun a ha => by
      rw [readByte_writeBytes, if_pos (by rw [convAll_length]; omega), Nat.sub_zero]
    have hpayload : Sound c .draw s.madctl s.madctl (writeBytes s.convBuf 0 (convAll px))
        [.txScratch (pixelCount xs ys xe ye)] :=
      ⟨rfl, ⟨px, List.length_pos_iff.mp hpos, hlen, hcap ▸ hfits, hread⟩, rfl⟩
    exact sound_wireTxn (by decide) (commandInstr_window _ _).1 (sound_wireTxn (by decide) (commandInstr_window _ _).2
      ⟨rfl, by rw [hcap, hlen]; exact hfits, sound_wireTxn (by decide) rfl hpayload⟩)
  | setMirror x y => exact ⟨rfl, emittable_wireTxn rfl, by rw [fixedBits_withMirror, hfixed], rfl⟩
  | setSwapAxes sw => exact ⟨rfl, emittable_wireTxn rfl, by rw [fixedBits_withSwap, hfixed], rfl⟩
  | invertColor on => cases on <;> exact sound_wireTxn (by decide) rfl rfl
  | displayPower on => cases on <;> exact sound_wireTxn (by decide) rfl rfl

/-! ## Running sound steps -/

/-- The payload is the conversion of the pixels whose bytes stand in CONV_BUF (R162, R172). -/
theorem scratchBytes_eq_convAll {s : State} {px : List Half}
    (h : ∀ a < 3 * px.length, readByte s.convBuf a = (convAll px)[a]?) : scratchBytes s px.length = convAll px := by
  apply List.ext_getElem
  · simp [scratchBytes]
  · intro a ha ha'
    have hin : a < 3 * px.length := by rwa [convAll_length] at ha'
    simp [scratchBytes, scratchByte, h a hin, List.getElem?_eq_getElem ha']

/-- A sound payload step is the transaction of its bytes, a sound step itself. -/
theorem Sound.payload {c : Configuration} {k : OpKind} {m : Byte} {s : State} {n : Nat} {r : List Action}
    (h : Sound c k m s.madctl s.convBuf (.txScratch n :: r)) :
    Sound c k m s.madctl s.convBuf (.tx (payloadTxn (scratchBytes s n)) :: r) := by
  obtain ⟨hsync, ⟨px, hne, rfl, -, hread⟩, hr⟩ := h
  exact ⟨hsync, scratchBytes_eq_convAll hread ▸ emittable_payload hne, hr⟩

/-- Sound steps of operation `k` are left in state `t` at phase `p`, after a run from `s`. -/
def SoundlyAhead (c : Configuration) (k : OpKind) (sent : Byte) (s : State) (p : Nat) (t : State) (acts : List Action) : Prop :=
  1 ≤ p ∧ ∃ m, EmittedSince s sent t m ∧ Sound c k m t.madctl t.convBuf acts

/-- A run from `s` has stopped in `t` with the mode values in agreement, or with an outstanding transaction and sound steps left. -/
def SoundlyStopped (c : Configuration) (k : OpKind) (sent : Byte) (s t : State) : Prop :=
  ∃ m, EmittedSince s sent t m ∧ (t.current = none → m = t.madctl) ∧
    ∀ op, t.current = some op →
      1 ≤ op.phase ∧ op.kind = k ∧ Sound c k m t.madctl t.convBuf (.tx op.tx :: op.rest)

/-- An operation ends soundly where the mode values agree. -/
theorem soundlyStopped_finish {c : Configuration} {k : OpKind} {sent : Byte} {s t : State} (d : Completion)
    (h : EmittedSince s sent t t.madctl) : SoundlyStopped c k sent s (t.finish k d) :=
  ⟨t.madctl, by simpa [EmittedSince] using h, by simp, by simp⟩

/-- Sound steps stop soundly: at the end, at a FAIL, or waiting. -/
theorem run_soundly (c : Configuration) (k : OpKind) (sent : Byte) (s : State) :
    RunRule k (SoundlyAhead c k sent s) (SoundlyStopped c k sent s) where
  ends := by
    rintro p t ⟨-, m, hem, rfl : m = t.madctl⟩
    exact soundlyStopped_finish _ hem
  waits := by
    rintro p t u r ⟨hp, m, hem, hsound⟩ -
    refine ⟨m, hem, nofun, ?_⟩
    rintro _ ⟨⟩
    exact ⟨hp, rfl, hsound⟩
  accepts := by
    rintro p t u r as ⟨hp, m, hem, -, hu, hr⟩ -
    exact ⟨Nat.le_succ_of_le hp, _, hem.snoc (accepted_trace ..) (by rintro _ _ ⟨⟩; exact hu), by simpa [modeAfter] using hr⟩
  fails := by
    rintro p t u r as ⟨hp, m, hem, rfl : m = t.madctl, hu, -⟩ -
    exact soundlyStopped_finish _ (hem.snoc (failed_trace ..) (by rintro _ _ ⟨⟩; exact hu))
  payload := by
    rintro p t n r ⟨hp, m, hem, hsound⟩
    exact ⟨hp, m, hem, hsound.payload⟩
  rst := by
    rintro p t l r ⟨hp, m, hem, hsound⟩
    exact ⟨hp, m, hem.snoc (driveReset_trace ..) nofun, hsound⟩
  delay := by
    rintro p t ms r ⟨hp, m, hem, hsound⟩
    exact ⟨hp, m, hem.snoc (emit_trace ..) nofun, hsound⟩
  convert := by
    rintro p t px r ⟨hp, m, hem, -, -, hsound⟩
    exact ⟨hp, m, hem, hsound⟩
  mode := by
    rintro p t v r ⟨hp, m, hem, -, hsound⟩
    exact ⟨hp, m, hem, hsound⟩

/-! ## CONV_BUF while an operation runs -/

/-- CONV_BUF is canonical and within its capacity, and empty but in a DRAW (R31, R32, R50). -/
structure ScratchMeets (c : Configuration) (k : OpKind) (buf : Memory) : Prop where
  canonical : buf.wf
  inCapacity : ∀ cell ∈ buf, cell.1 < 3 * c.capPixels.toNat
  onlyInDraw : buf ≠ [] → k = .draw

theorem scratchMeets_nil (c : Configuration) (k : OpKind) : ScratchMeets c k [] := ⟨wf_nil, nofun, fun h => absurd rfl h⟩

/-- The steps left convert within the capacity, and only in a DRAW. -/
def ConvertsWithin (c : Configuration) (k : OpKind) (acts : List Action) : Prop :=
  ∀ px, .convert px ∈ acts → k = .draw ∧ px.length ≤ c.capPixels.toNat

theorem ConvertsWithin.tail {c : Configuration} {k : OpKind} {a : Action} {acts : List Action}
    (h : ConvertsWithin c k (a :: acts)) : ConvertsWithin c k acts := fun px hpx => h px (List.mem_cons_of_mem _ hpx)

/-- Sound steps convert within the capacity, and only in a DRAW. -/
theorem Sound.convertsWithin {c : Configuration} {k : OpKind} {sent held : Byte} {buf : Memory} {acts : List Action}
    (h : Sound c k sent held buf acts) : ConvertsWithin c k acts := by
  intro px hpx
  induction acts generalizing sent held buf with
  | nil => cases hpx
  | cons a acts ih =>
    obtain rfl | hacts := List.mem_cons.mp hpx
    · obtain ⟨hk, hcap, -⟩ := h
      exact ⟨hk, hcap⟩
    · cases a with
      | tx t => obtain ⟨-, -, hr⟩ := h; exact ih hr hacts
      | txScratch n => obtain ⟨-, -, hr⟩ := h; exact ih hr hacts
      | rst l => exact ih h hacts
      | delay ms => exact ih h hacts
      | convert px' => obtain ⟨-, -, hr⟩ := h; exact ih hr hacts
      | setMadctl m => obtain ⟨-, hr⟩ := h; exact ih hr hacts

/-- Pixels converted in a DRAW, within the capacity, leave CONV_BUF as it has to be. -/
theorem ScratchMeets.convert {c : Configuration} {k : OpKind} {buf : Memory} {px : List Half} (h : ScratchMeets c k buf)
    (hk : k = .draw) (hcap : px.length ≤ c.capPixels.toNat) : ScratchMeets c k (writeBytes buf 0 (convAll px)) where
  canonical := writeBytes_wf _ h.canonical 0
  inCapacity cell hcell := by
    obtain hold | ⟨-, hnew⟩ := mem_writeBytes _ hcell
    · exact h.inCapacity cell hold
    · rw [convAll_length] at hnew
      omega
  onlyInDraw _ := hk

/-- The end of an operation leaves CONV_BUF empty (R32, R208). -/
theorem ScratchMeets.finish {c : Configuration} {k : OpKind} {s : State} (h : ScratchMeets c k s.convBuf) (d : Completion) :
    (s.finish k d).convBuf = [] := by
  rw [finish_convBuf]
  split
  · rfl
  · rename_i hk
    exact not_not.mp (mt h.onlyInDraw hk)

/-- Steps that convert within the capacity, and only in a DRAW, keep CONV_BUF as it has to be, and empty at their end. -/
theorem run_scratchMeets {c : Configuration} {k : OpKind} {p : Nat} {acts : List Action} {s : State}
    (h : ScratchMeets c k s.convBuf) (hacts : ConvertsWithin c k acts) :
    ScratchMeets c k (run k p acts s).convBuf ∧ ((run k p acts s).current = none → (run k p acts s).convBuf = []) :=
  RunRule.run (P := fun _ t r => ScratchMeets c k t.convBuf ∧ ConvertsWithin c k r)
    (Q := fun t => ScratchMeets c k t.convBuf ∧ (t.current = none → t.convBuf = []))
    { ends := fun ⟨h, _⟩ => ⟨by rw [h.finish]; exact scratchMeets_nil c k, fun _ => h.finish .ok⟩
      waits := fun ⟨h, _⟩ _ => ⟨h, nofun⟩
      accepts := fun ⟨h, hr⟩ _ => ⟨by rwa [accepted_convBuf], hr.tail⟩
      fails := fun {_ s t _ as} ⟨h, _⟩ _ =>
        have hend := ScratchMeets.finish (s := s.failed t as) h
        ⟨by rw [hend]; exact scratchMeets_nil c k, fun _ => hend _⟩
      payload := fun ⟨h, hr⟩ => ⟨h, fun px hpx => hr px (List.mem_cons_of_mem _ (by simpa using hpx))⟩
      rst := fun ⟨h, hr⟩ => ⟨h, hr.tail⟩
      delay := fun ⟨h, hr⟩ => ⟨h, hr.tail⟩
      convert := fun {_ _ px _} ⟨h, hr⟩ =>
        have ⟨hk, hcap⟩ := hr px List.mem_cons_self
        ⟨h.convert hk hcap, hr.tail⟩
      mode := fun ⟨h, hr⟩ => ⟨h, hr.tail⟩ } ⟨h, hacts⟩

/-! ## The invariant -/

/-- State `s` is ready to run the steps `acts` of operation `k` from phase `p`: what the invariant says of an operation in
progress, and of the steps a request starts. -/
structure Ready (k : OpKind) (p : Nat) (acts : List Action) (s : State) : Prop where
  phase : 1 ≤ p
  scratch : ScratchMeets s.cfg k s.convBuf
  fixed : HasDefaultFixedBits s
  sound : Sound s.cfg k (lastSentMode s) s.madctl s.convBuf acts

/-- From a ready state the steps stop soundly. -/
theorem Ready.stopped {k : OpKind} {p : Nat} {acts : List Action} {s : State} (h : Ready k p acts s) :
    SoundlyStopped s.cfg k (lastSentMode s) s (run k p acts s) :=
  (run_soundly s.cfg k (lastSentMode s) s).run ⟨h.phase, _, .refl _ _, h.sound⟩

/-- From a ready state the steps stop in the invariant. -/
theorem Ready.inv {k : OpKind} {p : Nat} {acts : List Action} {s : State} (h : Ready k p acts s) : Inv (run k p acts s) := by
  obtain ⟨m, hem, hidle, hwaiting⟩ := h.stopped
  obtain ⟨hscratch, hempty⟩ := run_scratchMeets (p := p) h.scratch h.sound.convertsWithin
  have hmode : lastSentMode (run k p acts s) = m := hem.lastSentMode (run_cfg k p acts s)
  refine
    { scratchCanonical := hscratch.canonical
      scratchInCapacity := by rw [run_cfg]; exact hscratch.inCapacity
      scratchOnlyInDraw := fun hne => ?_
      modeFixedBits := run_keeps_fixedBits h.fixed fun v hv => h.sound.fixedBits_written hv
      modeSynchronised := fun hc => hmode.trans (hidle hc)
      inProgress := fun op hop => ?_ }
  · obtain ⟨op, hop⟩ := Option.ne_none_iff_exists'.mp (mt hempty hne)
    exact ⟨op, hop, (hwaiting op hop).2.1.trans (hscratch.onlyInDraw hne)⟩
  · obtain ⟨hphase, rfl, hsound⟩ := hwaiting op hop
    rw [run_cfg, hmode]
    exact ⟨hphase, hsound⟩

/-- Between requests nothing is known of CONV_BUF (R32). -/
theorem Inv.convBuf_eq_nil {s : State} (h : Inv s) (hc : s.current = none) : s.convBuf = [] := by
  by_contra hne
  obtain ⟨op, hop, -⟩ := h.scratchOnlyInDraw hne
  rw [hc] at hop
  cases hop

/-- What the invariant says between requests. -/
theorem inv_of_idle {s : State} (hc : s.current = none) (hbuf : s.convBuf = []) (hfixed : HasDefaultFixedBits s)
    (hsync : lastSentMode s = s.madctl) : Inv s where
  scratchCanonical := by rw [hbuf]; exact wf_nil
  scratchInCapacity := by rw [hbuf]; exact nofun
  scratchOnlyInDraw hne := absurd hbuf hne
  modeFixedBits := hfixed
  modeSynchronised _ := hsync
  inProgress op hop := by rw [hc] at hop; cases hop

/-- An operation in progress is ready to go on. -/
theorem Inv.ready_of_outstanding {s : State} (h : Inv s) {op : Operation} (hop : s.current = some op) :
    Ready op.kind op.phase (.tx op.tx :: op.rest) s := by
  obtain ⟨hphase, hsound⟩ := h.inProgress op hop
  refine ⟨hphase, ⟨h.scratchCanonical, h.scratchInCapacity, fun hne => ?_⟩, h.modeFixedBits, hsound⟩
  obtain ⟨op', hop', hdraw⟩ := h.scratchOnlyInDraw hne
  rw [hop] at hop'
  cases hop'
  exact hdraw

/-- A request admitted in the invariant is ready to run its steps. -/
theorem Inv.ready_of_starts {s : State} (h : Inv s) (hc : s.current = none) {i : Instr} {k : OpKind} {acts : List Action}
    (hstart : Starts s i k acts) : Ready k 1 acts s where
  phase := Nat.le_refl 1
  scratch := by rw [h.convBuf_eq_nil hc]; exact scratchMeets_nil _ _
  fixed := h.modeFixedBits
  sound := by rw [h.modeSynchronised hc]; exact hstart.sound rfl h.modeFixedBits

/-- A request frame decodes to a request. -/
theorem isRequest_of_decodeRequest {f : ReqFrame} {i : Instr} (h : decodeRequest f = .ok i) : isRequest i = true := by
  by_contra hi
  obtain ⟨u, hu⟩ := encode_wire (Bool.eq_false_iff.mpr hi)
  rw [encode_of_decodeRequest h] at hu
  cases hu

/-- A step from the invariant runs steps that are ready, or keeps the invariant without an event. -/
theorem step_ready {s t : State} (hinv : Inv s) (h : step s = .next t) :
    (Inv t ∧ t.trace = s.trace) ∨
      ∃ k p acts s', Ready k p acts s' ∧ s'.trace = s.trace ∧ t = run k p acts s' := by
  obtain ⟨op, i, hop, hdec, hexec⟩ | ⟨-, -, rfl⟩ | ⟨f, more, i, hc, -, hdec, hexec⟩ | ⟨more, hc, -, -, rfl⟩ := step_next h
  · rw [exec_of_encode_txn (encode_of_decodeTxn hdec)] at hexec
    obtain ⟨-, ⟨hc, -⟩ | ⟨op', hop', -, rfl⟩⟩ := transmit_next hexec
    · rw [hop] at hc
      cases hc
    · rw [hop] at hop'
      cases hop'
      exact .inr ⟨_, _, _, s, hinv.ready_of_outstanding hop, rfl, rfl⟩
  · exact .inl ⟨hinv, rfl⟩
  · have hinv' : Inv { s with caller := more } := { hinv with }
    obtain ⟨-, ⟨-, rfl⟩ | ⟨k, acts, hstart, rfl⟩⟩ := exec_request_next (isRequest_of_decodeRequest hdec) hexec
    · exact .inl ⟨inv_of_idle hc (hinv.convBuf_eq_nil hc) hinv.modeFixedBits (hinv.modeSynchronised hc), rfl⟩
    · exact .inr ⟨_, _, _, _, hinv'.ready_of_starts hc hstart, rfl, rfl⟩
  · exact .inl ⟨inv_of_idle hc rfl hinv.modeFixedBits (hinv.modeSynchronised hc), rfl⟩

/-- Settles O41: the steps that a step of the machine runs are ready, and ready steps stop in the invariant. -/
theorem everyStepKeepsTheInvariant : Obligations.EveryStepKeepsTheInvariant := by
  intro s t hinv h
  obtain ⟨hinv', -⟩ | ⟨k, p, acts, s', hready, -, rfl⟩ := step_ready hinv h
  · exact hinv'
  · exact hready.inv

/-- Settles O42: a constructed engine is idle, knows nothing of CONV_BUF, and has MADCTL_DEFAULT in MADCTL. -/
theorem resetMeetsTheInvariant : Obligations.ResetMeetsTheInvariant :=
  have hbuilt (c : Configuration) : Inv (State.built c) := inv_of_idle rfl rfl rfl rfl
  ⟨hbuilt _, hbuilt⟩

/-- Settles O43: the invariant says so between requests. -/
theorem modeRegisterStaysSynchronised : Obligations.ModeRegisterStaysSynchronised :=
  ⟨fun _ => rfl, fun s t hinv h hc => (everyStepKeepsTheInvariant s t hinv h).modeSynchronised hc⟩

/-! ## What a step emits -/

/-- The command bytes are those of the map, and the two window commands are the COLOR ones (R77, R80). -/
theorem commandByte_of_the_map (c : Command) :
    commandByte c ∈ wireOpcodes ∧ (commandKind c = .color ↔ commandByte c = 0x2A#8 ∨ commandByte c = 0x2B#8) := by
  cases c with
  | vendor v => cases v <;> decide
  | _ => decide

/-- A row of the table is a command of the map with its kind, or the command-less payload (R77, R80). -/
theorem Emittable.of_the_map {u : Txn} (h : Emittable u) :
    (u.cmd = none ∧ u.kind = .color) ∨
      ∃ b, u.cmd = some b ∧ b ∈ wireOpcodes ∧ (u.kind = .color ↔ b = 0x2A#8 ∨ b = 0x2B#8) := by
  obtain ⟨c, d, rfl⟩ | ⟨d, rfl⟩ := h.cases
  · exact .inr ⟨commandByte c, rfl, commandByte_of_the_map c⟩
  · exact .inl ⟨rfl, rfl⟩

/-- Settles O53: sound steps emit only rows of the table. -/
theorem onlyCommandsOfTheMapAreEmitted : Obligations.OnlyCommandsOfTheMapAreEmitted := by
  intro s t es u a hinv h htr hu
  obtain ⟨-, hsame⟩ | ⟨k, p, acts, s', hready, hs', rfl⟩ := step_ready hinv h
  · obtain rfl : es = [] := by simpa [htr] using hsame
    cases hu
  · obtain ⟨_, ⟨es', hes', hemittable, -⟩, -⟩ := hready.stopped
    obtain rfl : es = es' := by simpa [htr, hs'] using hes'
    exact (hemittable u a hu).of_the_map

end Sys2Proof.Machine

/-! PROOFS. Late answers (spec 00_scope.md R19, 20_memory.md R63): an operation that was held while it waited goes on as if its
answers had been there at once. -/

namespace Sys2Proof.Machine

/-! ## A run does not look at the operation in progress -/

/-- A transaction answered OK does not look at the operation in progress. -/
theorem accepted_withCurrent (s : State) (x : Option Operation) (t : Txn) (as : List Answer) :
    State.accepted { s with current := x } t as = { s.accepted t as with current := x } := by
  unfold State.accepted State.noteWindow
  split
  · rfl
  · split <;> rfl

/-- Every run ends its operation or hands over a new outstanding transaction, whatever was in progress before. -/
theorem run_withCurrent (k : OpKind) (p : Nat) (acts : List Action) (s : State) (x : Option Operation) :
    run k p acts { s with current := x } = run k p acts s := by
  symm
  exact RunRule.run (P := fun q t r => run k q r { t with current := x } = run k p acts { s with current := x })
    (Q := fun t => t = run k p acts { s with current := x })
    { ends := fun h => h
      waits := fun h has => by rw [← h, run_tx_unanswered (by exact has)]; rfl
      accepts := fun h has => by rw [← h, run_tx_ok (by exact has), accepted_withCurrent _ x]
      fails := fun h has => by rw [← h, run_tx_fail (by exact has)]; rfl
      payload := fun h => h
      rst := fun h => h
      delay := fun h => h
      convert := fun h => h
      mode := fun h => h } rfl

/-! ## A run with more answers -/

/-- A transaction answered OK leaves the later answers where they are. -/
theorem accepted_withAnswers (s : State) (t : Txn) (as bs cs : List Answer) :
    State.accepted { s with answers := cs } t (as ++ bs) =
      { s.accepted t as with answers := (s.accepted t as).answers ++ bs } := by
  unfold State.accepted State.noteWindow
  split
  · rfl
  · split <;> rfl

/-- An operation held in `t`, carried on with the answers `bs`, gives the state `r`. -/
def ResumesTo (bs : List Answer) (t r : State) : Prop :=
  ∀ op, t.current = some op → run op.kind op.phase (.tx op.tx :: op.rest) { t with answers := bs } = r

/-- A run that stops to wait, carried on with the answers `bs`, is the run with `bs` after its own answers. -/
theorem run_resumes (k : OpKind) (p : Nat) (acts : List Action) (s : State) (bs : List Answer) :
    ResumesTo bs (run k p acts s) (run k p acts { s with answers := s.answers ++ bs }) :=
  RunRule.run
    (P := fun q t r => run k q r { t with answers := t.answers ++ bs } = run k p acts { s with answers := s.answers ++ bs })
    (Q := fun t => ResumesTo bs t (run k p acts { s with answers := s.answers ++ bs }))
    { ends := fun _ op hop => by simp at hop
      waits := fun {q t u r} h has op hop => by
        obtain rfl : (⟨k, q, u, r⟩ : Operation) = op := by simpa using hop
        rw [← h, has]
        exact run_withCurrent k q (.tx u :: r) { t with answers := bs } _
      accepts := fun {q t u r as} h has => by
        have hall : State.answers { t with answers := t.answers ++ bs } = .ok :: (as ++ bs) := congrArg (· ++ bs) has
        rw [← h, run_tx_ok hall, accepted_withAnswers]
      fails := fun _ _ op hop => by simp at hop
      payload := fun h => h
      rst := fun h => h
      delay := fun h => h
      convert := fun h => h
      mode := fun h => h } rfl

/-! ## The statement about late answers -/

/-- What a request starts depends on the configuration and MADCTL only, not on the answers. -/
theorem Starts.withAnswers {s : State} {i : Instr} {k : OpKind} {acts : List Action} (h : Starts s i k acts)
    (as : List Answer) : Starts { s with answers := as } i k acts := by
  cases h with
  | reset => exact .reset
  | init => exact .init
  | draw hvalid hfits => exact .draw hvalid hfits
  | setMirror x y => exact .setMirror x y
  | setSwapAxes sw => exact .setSwapAxes sw
  | invertColor on => exact .invertColor on
  | displayPower on => exact .displayPower on

/-- The outstanding transaction of a request that waits is a row of the table: its steps are sound for a configuration with the
fixed bits that MADCTL has. -/
theorem Starts.emittable_outstanding {s : State} {i : Instr} {k : OpKind} {acts : List Action} (h : Starts s i k acts)
    {op : Operation} (hop : (run k 1 acts s).current = some op) : Emittable op.tx := by
  have hsound := h.sound (c := { s.cfg with madctlDefault := s.madctl }) rfl rfl
  obtain ⟨m, -, -, hwaiting⟩ := (run_soundly _ k s.madctl s).run ⟨Nat.le_refl 1, _, .refl s _, hsound⟩
  obtain ⟨-, -, -, hemittable, -⟩ := hwaiting op hop
  exact hemittable

/-- A row of the wire side, with an answer there, carries the operation in progress on. -/
theorem exec_outstanding {i : Instr} {u : Txn} {s : State} {op : Operation} {a : Answer} {as : List Answer}
    (hi : encode i = .txn u) (ha : s.alive = true) (hop : s.current = some op) (has : s.answers = a :: as) :
    exec i s = .next (run op.kind op.phase (.tx u :: op.rest) s) :=
  (exec_of_encode_txn hi s).trans (transmit_answered ha hop has u)

/-- With an answer there, a step carries the operation in progress on. -/
theorem step_resumes {s : State} {op : Operation} (ha : s.alive = true) (hop : s.current = some op)
    (hu : Emittable op.tx) (has : s.answers ≠ []) :
    step s = .next (run op.kind op.phase (.tx op.tx :: op.rest) s) := by
  obtain ⟨i, hi⟩ := hu
  obtain ⟨a, as, has⟩ := List.exists_cons_of_ne_nil has
  rw [step_outstanding hop, hi]
  exact exec_outstanding (encode_of_decodeTxn hi) ha hop has

/-- Settles O40: the next step carries the held operation on, which is the run of the request with all its answers. -/
theorem lateAnswersChangeNothing : Obligations.LateAnswersChangeNothing := by
  intro i s t bs hi hidle h hwaiting hbs
  obtain ⟨-, ⟨-, rfl⟩ | ⟨k, acts, hstart, rfl⟩⟩ := exec_request_next hi h
  · exact absurd hidle.2 hwaiting
  · obtain ⟨op, hop⟩ := Option.ne_none_iff_exists'.mp hwaiting
    have halive : (run k 1 acts s).alive = true := (run_alive ..).trans hidle.1
    rw [step_resumes (s := { run k 1 acts s with answers := bs }) halive hop (hstart.emittable_outstanding hop) hbs,
      (hstart.withAnswers (s.answers ++ bs)).exec_idle hidle, run_resumes k 1 acts s bs op hop]

end Sys2Proof.Machine

/-! PROOFS. The wire rows, the step and construction (spec 43_transport_adapter.md R181 to R183, 70_reset_and_hazards.md R230 to
R234): a row as the outstanding transaction and on its own, what the step fetches, and what an engine refuses. -/

namespace Sys2Proof.Machine

/-! ## A wire row as the outstanding transaction -/

/-- Settles O32: the run of the outstanding transaction ends at its FAIL. -/
theorem failEndsTheOperationInProgress : Obligations.FailEndsTheOperationInProgress := by
  intro i u s op as hi ha hop hk has
  refine ⟨_, exec_outstanding hi ha hop has, ?_⟩
  rw [run_tx_fail has]
  simp [hk, ha]

/-- Settles O33: after the OK there is no answer left for a next transaction, and without one the run is at its end. -/
theorem okAdvancesThePhaseByOne : Obligations.OkAdvancesThePhaseByOne := by
  intro i u s op hi ha hop has
  refine ⟨fun u' r hrest => ⟨_, exec_outstanding hi ha hop has, ?_⟩, fun hrest hk => ⟨_, exec_outstanding hi ha hop has, ?_⟩⟩
  · rw [run_tx_ok has, hrest, run_tx_unanswered (accepted_answers ..)]
    simp
  · rw [run_tx_ok has, hrest, run_nil]
    simp [hk]

/-- Without an answer an outstanding transaction has no next state (U11). -/
theorem transmit_silent {s : State} {op : Operation} (ha : s.alive = true) (hop : s.current = some op)
    (has : s.answers = []) (u : Txn) : transmit u s = .fault .transportSilent := by
  simp [transmit, ha, hop, has]

/-- Settles O34: the row, and the one that the step decodes, is a transmission that is never answered. -/
theorem silentTransportIsStuck : Obligations.SilentTransportIsStuck := by
  intro i u s op ha hop has
  refine ⟨fun hi => (exec_of_encode_txn hi s).trans (transmit_silent ha hop has u), fun hdec => ?_⟩
  rw [step_outstanding hop, hdec]
  exact (exec_of_encode_txn (encode_of_decodeTxn hdec) s).trans (transmit_silent ha hop has op.tx)

/-! ## A wire row on its own -/

/-- The end of a transaction on its own changes nothing (notes/assumptions/7.md). -/
theorem finish_bare {s : State} (hc : s.current = none) (c : Completion) : s.finish .bare c = s := by
  cases s
  cases hc
  rfl

section Alone

variable {s : State} {as : List Answer}

/-- A transaction on its own answered OK. -/
theorem transmit_alone_ok (hidle : Idle s) (has : s.answers = .ok :: as) (u : Txn) :
    transmit u s = .next (s.accepted u as) := by
  rw [transmit_bare hidle.1 hidle.2, run_tx_ok has, run_nil, finish_bare (by rw [accepted_current, hidle.2])]

/-- A transaction on its own answered FAIL. -/
theorem transmit_alone_fail (hidle : Idle s) (has : s.answers = .fail :: as) (u : Txn) :
    transmit u s = .next (s.failed u as) := by
  rw [transmit_bare hidle.1 hidle.2, run_tx_fail has, finish_bare (by rw [failed_current, hidle.2])]

/-- A transaction on its own that is no window command is emitted with its answer, and nothing else changes. -/
theorem transmit_alone {a : Answer} (hidle : Idle s) (has : s.answers = a :: as) {u : Txn} (hw : LeavesWindow u) :
    transmit u s = .next { s with answers := as, trace := s.trace ++ [.tx u a] } := by
  cases a with
  | ok => rw [transmit_alone_ok hidle has, accepted_of_leavesWindow hw]
  | fail => exact transmit_alone_fail hidle has u

/-- A column window on its own also sets the ghost columns, if it was answered OK (R37). -/
theorem transmit_alone_caset {a : Answer} (hidle : Idle s) (has : s.answers = a :: as) (p q : Half) :
    transmit (wireTxn .caset (coord8 p q)) s =
      .next { s with
        answers := as
        trace := s.trace ++ [.tx (wireTxn .caset (coord8 p q)) a]
        ctrlColumns := if a = .ok then some (p, q) else s.ctrlColumns } := by
  cases a with
  | ok =>
    rw [transmit_alone_ok hidle has, ← parseCoord8_coord8 p q]
    rfl
  | fail => exact transmit_alone_fail hidle has _

/-- A row window on its own also sets the ghost rows, if it was answered OK (R37). -/
theorem transmit_alone_raset {a : Answer} (hidle : Idle s) (has : s.answers = a :: as) (p q : Half) :
    transmit (wireTxn .raset (coord8 p q)) s =
      .next { s with
        answers := as
        trace := s.trace ++ [.tx (wireTxn .raset (coord8 p q)) a]
        ctrlRows := if a = .ok then some (p, q) else s.ctrlRows } := by
  cases a with
  | ok =>
    rw [transmit_alone_ok hidle has, ← parseCoord8_coord8 p q]
    rfl
  | fail => exact transmit_alone_fail hidle has _

end Alone

/-- Settles O31: each row is the transmission of its transaction, and only the two window commands touch the ghost window. -/
theorem wireRowsSendTheirTransaction : Obligations.WireRowsSendTheirTransaction := by
  intro s a as sent hidle has hsent
  have row (c : Command) (d : List Byte) (hcol : c ≠ .caset) (hrow : c ≠ .raset) :
      transmit (wireTxn c d) s = .next (sent (wireTxn c d)) := by
    rw [hsent, transmit_alone hidle has (leavesWindow_wireTxn hcol hrow d)]
  have vendor (v : VendorCmd) (d : List Byte) : transmit (wireTxn (.vendor v) d) s = .next (sent (wireTxn (.vendor v) d)) :=
    row _ d nofun nofun
  refine ⟨row .swreset [] nofun nofun, row .slpout [] nofun nofun, row .invoff [] nofun nofun, row .invon [] nofun nofun,
    row .dispoff [] nofun nofun, row .dispon [] nofun nofun, row .ramwr [] nofun nofun,
    row .pixfmt [pixelFormat] nofun nofun, fun m => row .madctl [m] nofun nofun, vendor .b0, vendor .b1, vendor .b4,
    vendor .b6, vendor .b7, vendor .c0, vendor .c1, vendor .c5, vendor .e0, vendor .e1, fun d => ?_, fun p q => ?_,
    fun p q => ?_⟩
  · rw [hsent]
    exact transmit_alone hidle has (u := payloadTxn d) ⟨nofun, nofun⟩
  · rw [hsent]
    exact transmit_alone_caset hidle has p q
  · rw [hsent]
    exact transmit_alone_raset hidle has p q

/-! ## What a step runs -/

/-- Settles O35: the request asked is what the step fetches. -/
theorem stepRunsTheRequestAsked : Obligations.StepRunsTheRequestAsked := by
  intro s f more i hc hcaller hdec
  rw [step_request hc hcaller, hdec, runDecoded]

/-- Settles O36: the outstanding transaction is what the step fetches. -/
theorem stepRunsTheOutstandingTransaction : Obligations.StepRunsTheOutstandingTransaction := by
  intro s op i hop hdec
  rw [step_outstanding hop, hdec, runDecoded]

/-- Settles O37: a placed request is asked next, a placed transaction is outstanding. -/
theorem placedFrameRunsNext : Obligations.PlacedFrameRunsNext := fun s i =>
  ⟨fun f hdec => stepRunsTheRequestAsked (s.place (.req f)) f s.caller i rfl rfl hdec,
    fun u hdec => stepRunsTheOutstandingTransaction (s.place (.txn u)) ⟨.bare, 1, u, []⟩ i rfl hdec⟩

/-! ## What an engine refuses -/

/-- Every request is guarded (R234, R245). -/
theorem exec_request_guarded {i : Instr} (hi : isRequest i = true) (s : State) : ∃ go, exec i s = guarded s go := by
  cases i with
  | reset => exact ⟨_, rfl⟩
  | init => exact ⟨_, rfl⟩
  | draw => exact ⟨_, rfl⟩
  | setMirror => exact ⟨_, rfl⟩
  | setSwapAxes => exact ⟨_, rfl⟩
  | invertColor => exact ⟨_, rfl⟩
  | displayPower => exact ⟨_, rfl⟩
  | _ => cases hi

/-- A destroyed engine refuses every instruction (R234, U10). -/
theorem exec_afterTeardown {s : State} (ha : s.alive = false) (i : Instr) : exec i s = .refused .afterTeardown := by
  cases hi : isRequest i with
  | true =>
    obtain ⟨go, hgo⟩ := exec_request_guarded hi s
    simp [hgo, guarded, ha]
  | false =>
    obtain ⟨u, hu⟩ := encode_wire hi
    simp [exec_of_encode_txn hu, transmit, ha]

/-- Settles O38: the step destroys the engine, and a destroyed engine refuses what is asked before or after decoding it. -/
theorem teardownEndsTheEngine : Obligations.TeardownEndsTheEngine := by
  refine ⟨fun s more hidle hcaller => ?_, fun s i ha => exec_afterTeardown ha i, fun s e more ha hc hcaller => ?_⟩
  · rw [step_teardown hidle.2 hcaller]
    exact if_pos hidle.1
  · cases e with
    | request f =>
      rw [step_request hc hcaller]
      cases decode (.req f) with
      | ok i => exact exec_afterTeardown (s := { s with caller := more }) ha i
      | rejected e => simp [runDecoded, ha]
    | teardown =>
      rw [step_teardown hc hcaller]
      simp [teardownStep, ha]

/-- Settles O39: the guard of every request refuses it while another is in progress, and an idle step fetches nothing. -/
theorem oneRequestAtATime : Obligations.OneRequestAtATime := by
  refine ⟨fun i s hi ha hc => ?_, fun s hidle hcaller => step_idle hidle.2 hcaller⟩
  obtain ⟨go, hgo⟩ := exec_request_guarded hi s
  obtain ⟨op, hop⟩ := Option.ne_none_iff_exists'.mp hc
  simp [hgo, guarded, ha, hop]

/-! ## Construction -/

/-- Settles O54: the first check is the transport, the second the allocation (R231, R232, D16). -/
theorem constructionFailures : Obligations.ConstructionFailures :=
  ⟨fun _ _ => rfl, fun _ => rfl, fun _ _ => ⟨nofun, nofun, nofun⟩⟩

/-- Settles O55: what is built is the reset state of the configuration (R230, R233). -/
theorem constructionBuildsTheResetState : Obligations.ConstructionBuildsTheResetState :=
  ⟨fun c => ⟨State.built c, rfl, rfl, rfl, rfl, rfl, rfl, rfl⟩, Config.configured, rfl⟩

end Sys2Proof.Machine

/-! PROOFS. The requests (spec 40_init_sequencer.md, 41_orientation.md, 60_exceptions.md R205): RESET with a line, the requests that
wait for an answer, the writers of MADCTL, and the completions a request can have. -/

namespace Sys2Proof.Machine

/-! ## RESET -/

/-- Settles O10: the four steps are run one after the other. -/
theorem resetPulsesTheLine : Obligations.ResetPulsesTheLine := by
  refine ⟨rfl, fun s hidle hline => ?_⟩
  rw [exec_reset_idle hidle, resetScript, if_pos hline, run_rst, run_delay, run_rst, run_delay, run_nil,
    finish_reset (by exact hidle.2)]
  simp [State.emit, State.driveReset]

/-- Settles O12: with a line only the line, the trace and the completions change, and no event is a transaction; without one only
the completions. -/
theorem resetChangesNoEngineState : Obligations.ResetChangesNoEngineState := by
  intro s hidle
  cases hline : s.cfg.hasRst with
  | false => exact ⟨_, resetWithoutALine s hidle hline, rfl, rfl, rfl, hidle.2, rfl, rfl, rfl⟩
  | true =>
    obtain ⟨-, hpulse⟩ := resetPulsesTheLine
    refine ⟨_, hpulse s hidle hline, rfl, rfl, rfl, hidle.2, rfl, rfl, ?_⟩
    rw [txnsOf_append]
    exact List.append_nil _

/-! ## INIT while it waits -/

/-- A table whose answers end at row `i`, all OK: what precedes is emitted, and the operation waits at the row's phase (R27). -/
theorem run_table_waits {es : List TableEntry} (hw : ∀ e ∈ es, LeavesWindow e.1) {i : Nat} {u : Txn} {d : Option Nat}
    (hi : es[i]? = some (u, d)) {s : State} (h : s.answers = List.replicate i .ok) (k : OpKind) (p : Nat) :
    ∃ rest, run k p (tableActions es) s = (s.afterOk (es.take i) []).waitFor k (p + i) u rest := by
  obtain ⟨hlt, hget⟩ := List.getElem?_eq_some_iff.mp hi
  have hlen : (es.take i).length = i := List.length_take_of_le hlt.le
  have hsplit : es = es.take i ++ (u, d) :: es.drop (i + 1) := by
    rw [← hget, ← List.drop_eq_getElem_cons hlt, List.take_append_drop]
  have hok : s.answers = List.replicate (es.take i).length .ok ++ [] := by rw [hlen, h, List.append_nil]
  refine ⟨d.toList.map .delay ++ tableActions (es.drop (i + 1)), ?_⟩
  conv_lhs => rw [hsplit, tableActions_append, run_entries_ok (fun e he => hw e (List.mem_of_mem_take he)) hok, hlen]
  exact run_tx_unanswered rfl _ _ _ _

/-- Settles O14: INIT is the run of its table. -/
theorem initWaitsForAnAnswer : Obligations.InitWaitsForAnAnswer := by
  intro s k u d hidle has hk
  obtain ⟨rest, hrun⟩ := run_table_waits (fun _ => leavesWindow_of_mem_initTable) hk has .init 1
  exact ⟨rest, by rw [exec_init_idle hidle, hrun, Nat.add_comm 1 k]; rfl⟩

/-! ## The requests of one transaction while they wait -/

/-- A request whose first step is a transaction waits for its answer at phase 1, and nothing else has changed (R27, R183). -/
theorem Starts.exec_waits {s : State} {i : Instr} {k : OpKind} {t : Txn} {rest : List Action}
    (h : Starts s i k (.tx t :: rest)) (hidle : Idle s) (has : s.answers = []) :
    exec i s = .next (s.waitFor k 1 t rest) := by
  rw [h.exec_idle hidle, run_tx_unanswered has]

/-- Settles O30: each of the four starts with its transaction. -/
theorem oneTransactionRequestsWait : Obligations.OneTransactionRequestsWait := by
  intro s hidle has
  refine ⟨fun x y => ⟨_, (Starts.setMirror x y).exec_waits hidle has⟩,
    fun sw => ⟨_, (Starts.setSwapAxes sw).exec_waits hidle has⟩, fun v => ?_, fun p => ?_⟩
  · rw [(Starts.invertColor v).exec_waits hidle has, invertColor_txn]
    rfl
  · rw [(Starts.displayPower p).exec_waits hidle has, displayPower_txn]
    rfl

/-! ## The bits of MADCTL that the two orientation requests write and keep -/

@[simp] theorem mirrorY_withMirror (m : Byte) (x y : Bool) : mirrorY (withMirror m x y) = y := by
  rw [mirrorY, withMirror, BitVec.getLsbD_append, BitVec.getLsbD_append]
  simp

@[simp] theorem mirrorX_withMirror (m : Byte) (x y : Bool) : mirrorX (withMirror m x y) = x := by
  rw [mirrorX, withMirror, BitVec.getLsbD_append, BitVec.getLsbD_append]
  simp

@[simp] theorem swapAxes_withSwap (m : Byte) (sw : Bool) : swapAxes (withSwap m sw) = sw := by
  rw [swapAxes, withSwap, BitVec.getLsbD_append, BitVec.getLsbD_append]
  simp

/-- SET_MIRROR keeps bits 5:0 (R132). -/
theorem getLsbD_withMirror_low (m : Byte) (x y : Bool) {j : Nat} (hj : j < 6) :
    (withMirror m x y).getLsbD j = m.getLsbD j := by
  rw [withMirror, BitVec.getLsbD_append]
  simp [hj]

/-- SET_SWAP_AXES keeps bits 7, 6 and 4:0 (R136). -/
theorem getLsbD_withSwap_other (m : Byte) (sw : Bool) {j : Nat} (hj : j < 8) (hne : j ≠ 5) :
    (withSwap m sw).getLsbD j = m.getLsbD j := by
  rw [withSwap, BitVec.getLsbD_append, BitVec.getLsbD_append]
  obtain hlow | rfl | rfl : j < 5 ∨ j = 6 ∨ j = 7 := by omega
  · simp [hlow]
  · simp
  · simp

/-- The two updates write different bits, so their order makes no difference (R138). -/
theorem withSwap_withMirror (m : Byte) (x y sw : Bool) :
    withSwap (withMirror m x y) sw = withMirror (withSwap m sw) x y := by
  apply eq_withMirror_of_bits
  · rw [getLsbD_withSwap_other _ _ (by decide) (by decide)]
    exact mirrorY_withMirror m x y
  · rw [getLsbD_withSwap_other _ _ (by decide) (by decide)]
    exact mirrorX_withMirror m x y
  · intro j hj
    obtain rfl | hne := eq_or_ne j 5
    · exact (swapAxes_withSwap (withMirror m x y) sw).trans (swapAxes_withSwap m sw).symm
    · rw [getLsbD_withSwap_other _ _ (by omega) hne, getLsbD_withSwap_other _ _ (by omega) hne, getLsbD_withMirror_low _ _ _ hj]

/-- Settles O27: each request keeps its byte in MADCTL, and the two updates commute. -/
theorem orientationRequestsCommute : Obligations.OrientationRequestsCommute := by
  intro s x y sw as hidle has hfixed
  refine ⟨_, _, _, _, (Starts.setMirror x y).exec_ok_mode (by decide) hidle has,
    (Starts.setSwapAxes sw).exec_ok_mode (by decide) hidle rfl,
    (Starts.setSwapAxes sw).exec_ok_mode (by decide) hidle has,
    (Starts.setMirror x y).exec_ok_mode (by decide) hidle rfl, ?_⟩
  refine ⟨withSwap_withMirror .., ?_, ?_, swapAxes_withSwap .., ?_⟩
  · exact (congrArg mirrorY (withSwap_withMirror ..)).trans (mirrorY_withMirror ..)
  · exact (congrArg mirrorX (withSwap_withMirror ..)).trans (mirrorX_withMirror ..)
  · simpa using hfixed

/-! ## Who writes MADCTL -/

/-- The only steps of a request that write MADCTL are those of the two orientation requests (R23). -/
theorem Starts.mode_written {s : State} {i : Instr} {k : OpKind} {acts : List Action} {m : Byte} (h : Starts s i k acts)
    (hm : .setMadctl m ∈ acts) :
    (∃ x y, i = .setMirror x y ∧ m = withMirror s.madctl x y) ∨ ∃ sw, i = .setSwapAxes sw ∧ m = withSwap s.madctl sw := by
  cases h with
  | reset => unfold resetScript at hm; split at hm <;> simp at hm
  | init => simp [initScript] at hm
  | draw => simp [drawScript] at hm
  | setMirror x y => exact .inl ⟨x, y, rfl, by simpa [modeScript] using hm⟩
  | setSwapAxes sw => exact .inr ⟨sw, rfl, by simpa [modeScript] using hm⟩
  | invertColor => simp at hm
  | displayPower => simp at hm

/-- An instruction on an idle engine leaves MADCTL alone, or is one of the two orientation requests and writes its update. -/
theorem exec_madctl {i : Instr} {s t : State} (hidle : Idle s) (h : exec i s = .next t) :
    t.madctl = s.madctl ∨ (∃ x y, i = .setMirror x y ∧ t.madctl = withMirror s.madctl x y) ∨
      ∃ sw, i = .setSwapAxes sw ∧ t.madctl = withSwap s.madctl sw := by
  cases hi : isRequest i with
  | true =>
    obtain ⟨-, ⟨-, rfl⟩ | ⟨k, acts, hstart, rfl⟩⟩ := exec_request_next hi h
    · exact .inl rfl
    · exact (run_madctl k 1 acts s).imp_right hstart.mode_written
  | false =>
    obtain ⟨u, hu⟩ := encode_wire hi
    rw [exec_of_encode_txn hu, transmit_bare hidle.1 hidle.2] at h
    injection h with h
    exact .inl (h ▸ (run_madctl .bare 1 [.tx u] s).resolve_right (by simp))

/-- Settles O46: the two updates keep the bits that are not theirs. -/
theorem onlyOrientationRequestsWriteMadctl : Obligations.OnlyOrientationRequestsWriteMadctl := by
  intro i s t hidle h
  obtain hsame | ⟨x, y, rfl, hm⟩ | ⟨sw, rfl, hm⟩ := exec_madctl hidle h
  · exact ⟨fun _ _ => hsame, fun _ _ _ => by rw [hsame], fun _ _ => by simp [hsame]⟩
  · refine ⟨fun hne => absurd rfl (hne x y), fun _ _ _ => ?_, nofun⟩
    apply BitVec.eq_of_getLsbD_eq
    intro j hj
    simp [hm, hj, getLsbD_withMirror_low]
  · refine ⟨fun _ hne => absurd rfl (hne sw), nofun, fun _ _ => ⟨by rw [hm, fixedBits_withSwap], ?_, ?_⟩⟩
    · rw [hm]
      exact getLsbD_withSwap_other _ _ (by decide) (by decide)
    · rw [hm]
      exact getLsbD_withSwap_other _ _ (by decide) (by decide)

/-! ## The completions a request can have -/

/-- The command of the transaction that a step attempts, if it attempts one (R76, R87). -/
def Action.command? : Action → Option (Option Byte)
  | .tx t => some t.cmd
  | .txScratch _ => some none
  | .rst _ | .delay _ | .convert _ | .setMadctl _ => none

/-- The commands of the transactions that steps attempt, in order. -/
def commandsOf (acts : List Action) : List (Option Byte) := acts.filterMap Action.command?

/-- The commands of the transactions among events, in order. -/
def commandsSent (es : List Event) : List (Option Byte) := (txnsOf es).map fun e => e.1.cmd

theorem commandsSent_append (es fs : List Event) : commandsSent (es ++ fs) = commandsSent es ++ commandsSent fs := by
  rw [commandsSent, txnsOf_append, List.map_append]
  rfl

/-- Since `s`, `t` has sent the commands `sent`. -/
def HasSent (s : State) (sent : List (Option Byte)) (t : State) : Prop :=
  ∃ es, t.trace = s.trace ++ es ∧ commandsSent es = sent

/-- One more event. -/
theorem HasSent.snoc {s t t' : State} {sent : List (Option Byte)} {e : Event} (h : HasSent s sent t)
    (htr : t'.trace = t.trace ++ [e]) : HasSent s (sent ++ commandsSent [e]) t' := by
  obtain ⟨es, hes, rfl⟩ := h
  exact ⟨es ++ [e], by rw [htr, hes, List.append_assoc], commandsSent_append es [e]⟩

/-- One more event that is no transaction. -/
theorem HasSent.snoc_quiet {s t t' : State} {sent : List (Option Byte)} {e : Event} (h : HasSent s sent t)
    (htr : t'.trace = t.trace ++ [e]) (he : commandsSent [e] = []) : HasSent s sent t' := by
  simpa [he] using h.snoc htr

/-- Steps send the commands of their transactions, in order, up to where they stop. -/
theorem run_sends (k : OpKind) (p : Nat) (acts : List Action) (s : State) :
    ∃ sent, HasSent s sent (run k p acts s) ∧ sent <+: commandsOf acts := by
  have quiet {sent : List (Option Byte)} {a : Action} {r : List Action} (ha : a.command? = none)
      (h : sent ++ commandsOf (a :: r) = commandsOf acts) : sent ++ commandsOf r = commandsOf acts := by
    rwa [commandsOf, List.filterMap_cons_none ha] at h
  have sends {sent : List (Option Byte)} {t : Txn} {r : List Action}
      (h : sent ++ commandsOf (.tx t :: r) = commandsOf acts) : (sent ++ [t.cmd]) ++ commandsOf r = commandsOf acts := by
    rw [List.append_assoc, ← h]
    rfl
  exact RunRule.run (P := fun _ t r => ∃ sent, HasSent s sent t ∧ sent ++ commandsOf r = commandsOf acts)
    (Q := fun t => ∃ sent, HasSent s sent t ∧ sent <+: commandsOf acts)
    { ends := fun ⟨sent, h, hr⟩ => ⟨sent, by simpa [HasSent] using h, _, hr⟩
      waits := fun ⟨sent, h, hr⟩ _ => ⟨sent, h, _, hr⟩
      accepts := fun ⟨_, h, hr⟩ _ => ⟨_, h.snoc (accepted_trace ..), sends hr⟩
      fails := fun ⟨_, h, hr⟩ _ => ⟨_, h.snoc (by rw [finish_trace, failed_trace]), _, sends hr⟩
      payload := fun h => h
      rst := fun ⟨_, h, hr⟩ => ⟨_, h.snoc_quiet (driveReset_trace ..) rfl, quiet rfl hr⟩
      delay := fun ⟨_, h, hr⟩ => ⟨_, h.snoc_quiet (emit_trace ..) rfl, quiet rfl hr⟩
      convert := fun ⟨sent, h, hr⟩ => ⟨sent, h, quiet rfl hr⟩
      mode := fun ⟨sent, h, hr⟩ => ⟨sent, h, quiet rfl hr⟩ } ⟨[], ⟨[], by simp, rfl⟩, rfl⟩

/-- A request completes OK, or with TRANSPORT_FAILURE that carries the command and the 1-based index of one of the transactions
it attempts (R203). -/
theorem run_completion {k : OpKind} (hk : k ≠ .bare) {acts : List Action} {s : State} {c : Completion}
    (h : (run k 1 acts s).completions = s.completions ++ [c]) :
    c = .ok ∨ ∃ n cmd, (commandsOf acts)[n]? = some cmd ∧ c = .transportFailure cmd (n + 1) := by
  cases run_stops hk 1 acts s with
  | waiting _ _ _ hcomp => simp [hcomp] at h
  | complete _ _ _ hcomp => exact .inl (by simpa using h.symm.trans hcomp)
  | @aborted pre u htrace _ _ hcomp =>
    obtain ⟨_, ⟨es, hes, rfl⟩, rest, hrest⟩ := run_sends k 1 acts s
    obtain rfl : es = pre ++ [.tx u .fail] := List.append_cancel_left (hes.symm.trans htrace)
    refine .inr ⟨(txnsOf pre).length, u.cmd, ?_, ?_⟩
    · rw [← hrest, commandsSent_append]
      simp [commandsSent]
    · rw [Nat.add_comm]
      simpa using h.symm.trans hcomp

/-- RESET attempts no transaction (R111). -/
theorem commandsOf_resetScript (c : Configuration) : commandsOf (resetScript c) = [] := by
  unfold resetScript
  split <;> rfl

/-- INIT attempts five transactions and the vendor rows (R116). -/
theorem length_commandsOf_initScript (c : Configuration) (m : Byte) :
    (commandsOf (initScript c m)).length = 5 + c.vendorTable.length := by
  have hvendor (v : List VendorEntry) :
      (commandsOf (v.map fun e => .tx (vendorTxn e))).length = v.length := by
    induction v with
    | nil => rfl
    | cons e v ih => exact congrArg (· + 1) ih
  rw [commandsOf, initScript, List.filterMap_append, List.filterMap_append, List.length_append, List.length_append]
  change 2 + (commandsOf (c.vendorTable.map fun e => .tx (vendorTxn e))).length + 3 = _
  rw [hvendor]
  omega

/-- A request that attempts one transaction can only fail in that. -/
theorem failure_of_single {cmd : Option Byte} {c : Completion}
    (h : c = .ok ∨ ∃ n cmd', ([cmd] : List (Option Byte))[n]? = some cmd' ∧ c = .transportFailure cmd' (n + 1)) :
    c = .ok ∨ c = .transportFailure cmd 1 := by
  refine h.imp_right ?_
  rintro ⟨n, cmd', hn, rfl⟩
  obtain ⟨rfl, rfl⟩ : n = 0 ∧ cmd = cmd' := by
    cases n with
    | zero => exact ⟨rfl, by simpa using hn⟩
    | succ n => simp at hn
  rfl

/-- A transaction on its own records no completion (notes/assumptions/7.md). -/
theorem run_bare_completions (p : Nat) (acts : List Action) (s : State) :
    (run .bare p acts s).completions = s.completions :=
  run_preserves (P := fun t => t.completions = s.completions) (by simp) (by simp) (by simp) (by simp) (by simp) (by simp)
    (by simp) (by simp) acts p s rfl

/-- Settles O52: a failure is one of the transactions that the request attempts. -/
theorem completionsARequestCanHave : Obligations.CompletionsARequestCanHave := by
  intro i s t hidle h
  cases hi : isRequest i with
  | false =>
    obtain ⟨u, hu⟩ := encode_wire hi
    rw [exec_of_encode_txn hu, transmit_bare hidle.1 hidle.2] at h
    injection h with h
    have hsame : t.completions = s.completions := h ▸ run_bare_completions ..
    exact ⟨fun _ => hsame, fun c hc => by simp [hsame] at hc⟩
  | true =>
    refine ⟨nofun, fun c hc => ?_⟩
    obtain ⟨-, ⟨⟨xs, ys, xe, ye, px, rfl, -, -⟩, rfl⟩ | ⟨k, acts, hstart, rfl⟩⟩ := exec_request_next hi h
    · obtain rfl : .sizeLimitExceeded = c := by simpa [sizeLimit] using hc
      exact ⟨nofun, nofun, nofun, nofun, nofun, nofun, fun _ _ _ _ _ _ => .inr (.inl rfl)⟩
    · have hcases := run_completion hstart.ne_bare hc
      cases hstart with
      | reset =>
        rw [commandsOf_resetScript] at hcases
        exact ⟨fun _ => hcases.resolve_right (by simp), nofun, nofun, nofun, nofun, nofun, nofun⟩
      | init =>
        refine ⟨nofun, fun _ => hcases.imp_right ?_, nofun, nofun, nofun, nofun, nofun⟩
        rintro ⟨n, cmd, hn, rfl⟩
        obtain ⟨hlt, -⟩ := List.getElem?_eq_some_iff.mp hn
        rw [length_commandsOf_initScript] at hlt
        exact ⟨cmd, n + 1, rfl, n.succ_pos, hlt⟩
      | draw =>
        refine ⟨nofun, nofun, nofun, nofun, nofun, nofun, fun _ _ _ _ _ _ => hcases.imp_right fun hfail => .inr ?_⟩
        obtain ⟨n, cmd, hn, rfl⟩ := hfail
        obtain _ | _ | _ | _ | n := n
        · cases hn; exact .inl rfl
        · cases hn; exact .inr (.inl rfl)
        · cases hn; exact .inr (.inr (.inl rfl))
        · cases hn; exact .inr (.inr (.inr rfl))
        · cases hn
      | setMirror x y => exact ⟨nofun, nofun, fun _ _ _ => failure_of_single hcases, nofun, nofun, nofun, nofun⟩
      | setSwapAxes sw => exact ⟨nofun, nofun, nofun, fun _ _ => failure_of_single hcases, nofun, nofun, nofun⟩
      | invertColor on =>
        rw [invertColor_txn] at hcases
        refine ⟨nofun, nofun, nofun, nofun, ?_, nofun, nofun⟩
        rintro _ ⟨⟩
        exact failure_of_single hcases
      | displayPower on =>
        rw [displayPower_txn] at hcases
        refine ⟨nofun, nofun, nofun, nofun, nofun, ?_, nofun⟩
        rintro _ ⟨⟩
        exact failure_of_single hcases

end Sys2Proof.Machine

/-! PROOFS. DRAW and the hidden state (spec 42_blit.md R153, R166, 10_state.md R32, R37): a DRAW that waits, the names of its refusals,
what it does not depend on, and the ghost state and CONV_BUF at the end of every request. -/

namespace Sys2Proof.Machine

/-! ## A DRAW that waits, and one that is refused -/

/-- Settles O18: the DRAW comes to the first transaction without an answer; the state it waits in differs from the one it found
in its events, CONV_BUF and the ghost window only. -/
theorem drawWaitsForAnAnswer : Obligations.DrawWaitsForAnAnswer := by
  intro s xs ys xe ye cs ce rs re px ts k u hidle hvalid hcap hcs hce hrs hre hts hk has
  obtain rfl := hts.trans (drawTxns_eq hvalid hcs hce hrs hre).symm
  obtain ⟨_, rest, ⟨_, _, _, rfl⟩, hexec⟩ := exec_draw_waits hidle hvalid hcap hk has
  exact ⟨_, rest, hexec, rfl, rfl, rfl, rfl, rfl, rfl, rfl⟩

/-- Settles O21: the three conditions are checked in this order. -/
theorem invalidDrawNamesItsCondition : Obligations.InvalidDrawNamesItsCondition := by
  intro s xs ys xe ye px hidle
  refine ⟨fun hempty => ?_, fun hnonempty hover => ?_, fun hnonempty hfits hcount => ?_⟩
  · exact exec_draw_refused hidle (if_pos hempty)
  · exact exec_draw_refused hidle (by rw [drawRefusal, if_neg (not_not.mpr hnonempty), if_pos (by omega)])
  · exact exec_draw_refused hidle
      (by rw [drawRefusal, if_neg (not_not.mpr hnonempty), if_neg (not_not.mpr hfits)]; exact if_pos hcount)

/-! ## What a DRAW does not depend on -/

/-- From `s` to `t` and from `s'` to `t'` the same events and the same completions were added, and the same operation is in
progress. -/
def Alike (s s' t t' : State) : Prop :=
  ∃ es cs, t.trace = s.trace ++ es ∧ t'.trace = s'.trace ++ es ∧
    t.completions = s.completions ++ cs ∧ t'.completions = s'.completions ++ cs ∧ t.current = t'.current

/-- The same event, and no completion, before both. -/
theorem Alike.after_event {s s' r r' t t' : State} {e : Event} (htr : r.trace = s.trace ++ [e])
    (htr' : r'.trace = s'.trace ++ [e]) (hco : r.completions = s.completions) (hco' : r'.completions = s'.completions)
    (h : Alike r r' t t') : Alike s s' t t' := by
  obtain ⟨es, cs, h1, h2, h3, h4, h5⟩ := h
  exact ⟨e :: es, cs, by rw [h1, htr, List.append_assoc]; rfl, by rw [h2, htr', List.append_assoc]; rfl, by rw [h3, hco],
    by rw [h4, hco'], h5⟩

/-- The operation that ends with the same completion ends alike. -/
theorem alike_finish (s s' : State) {k : OpKind} (hk : k ≠ .bare) (c : Completion) :
    Alike s s' (s.finish k c) (s'.finish k c) :=
  ⟨[], [c], by simp, by simp, by simp [hk], by simp [hk], by simp⟩

/-- A transaction that comes first is the first one handed over. -/
theorem HandsOver.head_eq {s : State} {t : Txn} {acts : List Action} {ts : List Txn} (h : HandsOver s (.tx t :: acts) ts) :
    ts.head? = some t := by
  cases h
  rfl

/-- Steps that hand over the same transactions from two states with the same answers run alike. -/
theorem HandsOver.run_alike {s s' : State} {acts : List Action} {ts : List Txn} (h : HandsOver s acts ts)
    (h' : HandsOver s' acts ts) (has : s.answers = s'.answers) {k : OpKind} (hk : k ≠ .bare) (p : Nat) :
    Alike s s' (run k p acts s) (run k p acts s') := by
  induction h generalizing s' p with
  | nil s => exact alike_finish s s' hk .ok
  | @tx s t acts ts _ ih =>
    obtain ⟨hnone, hrun⟩ | ⟨as, hok, hrun⟩ | ⟨as, hfail, hrun⟩ := attempt_cases k p t acts (run k (p + 1) acts) s
    · rw [run_tx, hrun, run_tx_unanswered (has ▸ hnone)]
      exact ⟨[], [], by simp, by simp, by simp, by simp, rfl⟩
    · rw [run_tx, hrun, run_tx_ok (has ▸ hok)]
      cases h' with
      | tx h' =>
        exact (ih as (h' as) (by simp) (p + 1)).after_event (accepted_trace ..) (accepted_trace ..)
          (accepted_completions ..) (accepted_completions ..)
    · rw [run_tx, hrun, run_tx_fail (has ▸ hfail)]
      exact (alike_finish (s.failed t as) (s'.failed t as) hk _).after_event (failed_trace s t as)
        (failed_trace s' t as) (failed_completions s t as) (failed_completions s' t as)
  | @txScratch s n acts ts h ih =>
    cases h' with
    | txScratch h' =>
      have hsame : payloadTxn (scratchBytes s' n) = payloadTxn (scratchBytes s n) :=
        Option.some.inj (h'.head_eq.symm.trans h.head_eq)
      rw [run_txScratch, run_txScratch, hsame]
      exact ih (hsame ▸ h') has p
  | convert _ ih =>
    cases h' with
    | convert h' => exact ih h' has p

/-- The valid domain depends on the two gaps only (R152). -/
theorem DrawValid.congr {c c' : Configuration} {xs ys xe ye : Half} {px : List Half} (hx : c.xGap = c'.xGap)
    (hy : c.yGap = c'.yGap) (h : DrawValid c xs ys xe ye px) : DrawValid c' xs ys xe ye px :=
  { h with columnFits := hx ▸ h.columnFits, rowFits := hy ▸ h.rowFits }

/-- The steps of DRAW depend on the two gaps only (R155). -/
theorem drawScript_congr {c c' : Configuration} {xs ys xe ye : Half} {px : List Half} (hx : c.xGap = c'.xGap)
    (hy : c.yGap = c'.yGap) : drawScript c xs ys xe ye px = drawScript c' xs ys xe ye px := by
  rw [drawScript, hx, hy, drawScript]

/-- Settles O23: the two engines turn the DRAW away alike, or run steps that hand over the same transactions. -/
theorem drawIgnoresModeAndHistory : Obligations.DrawIgnoresModeAndHistory := by
  intro s s' t xs ys xe ye px hidle hidle' hx hy hcap has h
  obtain ⟨-, ⟨⟨_, _, _, _, _, ⟨⟩, hvalid, hover⟩, rfl⟩ | ⟨k, acts, hstart, rfl⟩⟩ := exec_request_next rfl h
  · have hvalid' := (drawRefusal_eq_none_iff.mp hvalid).congr hx hy
    refine ⟨_, [], [.sizeLimitExceeded], exec_draw_overCapacity hidle' hvalid' (hcap ▸ hover), ?_⟩
    exact ⟨(List.append_nil _).symm, (List.append_nil _).symm, rfl, rfl, hidle.2.trans hidle'.2.symm⟩
  · cases hstart with
    | draw hvalid hfits =>
      have hv := drawRefusal_eq_none_iff.mp hvalid
      have hexec' := exec_draw_runs hidle' (hv.congr hx hy) (hcap ▸ hv.pixels ▸ hfits)
      rw [← drawScript_congr hx hy] at hexec'
      obtain ⟨es, cs, halike⟩ := (drawScript_handsOver hv.pixels s).run_alike
        (drawScript_handsOver (c := s.cfg) hv.pixels s') has (k := .draw) (by decide) 1
      exact ⟨_, es, cs, hexec', halike⟩

/-! ## Requests that leave the hidden state alone while they run -/

/-- The ghost state and CONV_BUF of `t` are those of `s` (R32, R37). -/
def SameHidden (s t : State) : Prop :=
  t.ctrlDefined = s.ctrlDefined ∧ t.ctrlColumns = s.ctrlColumns ∧ t.ctrlRows = s.ctrlRows ∧ t.convBuf = s.convBuf

/-- A step that touches neither the ghost window nor CONV_BUF. -/
def Action.Quiet : Action → Prop
  | .tx t => LeavesWindow t
  | .convert _ => False
  | .txScratch _ | .rst _ | .delay _ | .setMadctl _ => True

/-- What an attempted transaction can end a request with (R98). -/
def EndOfRun (c : Completion) : Prop := c = .ok ∨ ∃ cmd phase, c = .transportFailure cmd phase

/-- A run from `s` has stopped in `t`, waiting or at its end, and the hidden state was that of `s` up to there. -/
def QuietlyStopped (k : OpKind) (s t : State) : Prop :=
  (SameHidden s t ∧ t.completions = s.completions) ∨
    ∃ r c, SameHidden s r ∧ r.completions = s.completions ∧ EndOfRun c ∧ t = r.finish k c

/-- Quiet steps stop quietly. -/
theorem run_quietly (k : OpKind) (p : Nat) {acts : List Action} (hacts : ∀ a ∈ acts, a.Quiet) (s : State) :
    QuietlyStopped k s (run k p acts s) :=
  RunRule.run (P := fun _ t r => (SameHidden s t ∧ t.completions = s.completions) ∧ ∀ a ∈ r, a.Quiet)
    (Q := QuietlyStopped k s)
    { ends := fun ⟨⟨h, hco⟩, _⟩ => .inr ⟨_, _, h, hco, .inl rfl, rfl⟩
      waits := fun ⟨h, _⟩ _ => .inl h
      accepts := fun ⟨h, hr⟩ _ => by
        obtain ⟨hw, hr⟩ := List.forall_mem_cons.mp hr
        exact ⟨accepted_of_leavesWindow hw _ _ ▸ h, hr⟩
      fails := fun {_ t u _ as} ⟨⟨h, hco⟩, _⟩ _ => .inr ⟨t.failed u as, _, h, hco, .inr ⟨_, _, rfl⟩, rfl⟩
      payload := fun ⟨h, hr⟩ => ⟨h, List.forall_mem_cons.mpr ⟨⟨nofun, nofun⟩, (List.forall_mem_cons.mp hr).2⟩⟩
      rst := fun ⟨h, hr⟩ => ⟨h, (List.forall_mem_cons.mp hr).2⟩
      delay := fun ⟨h, hr⟩ => ⟨h, (List.forall_mem_cons.mp hr).2⟩
      convert := fun ⟨_, hr⟩ => (hr _ List.mem_cons_self).elim
      mode := fun ⟨h, hr⟩ => ⟨h, (List.forall_mem_cons.mp hr).2⟩ } ⟨⟨⟨rfl, rfl, rfl, rfl⟩, rfl⟩, hacts⟩

/-- A table without window commands is run by quiet steps. -/
theorem tableActions_quiet {es : List TableEntry} (hw : ∀ e ∈ es, LeavesWindow e.1) : ∀ a ∈ tableActions es, a.Quiet := by
  intro a ha
  obtain ⟨e, he, ha⟩ := List.mem_flatMap.mp ha
  obtain rfl | ha := List.mem_cons.mp ha
  · exact hw e he
  · obtain ⟨ms, -, rfl⟩ := List.mem_map.mp ha
    trivial

/-- A command other than the two window commands is a quiet step. -/
theorem quiet_wireTxn {c : Command} (hcol : c ≠ .caset) (hrow : c ≠ .raset) (d : List Byte) :
    (Action.tx (wireTxn c d)).Quiet :=
  leavesWindow_wireTxn hcol hrow d

/-- Every request but DRAW takes quiet steps. -/
theorem Starts.quiet {s : State} {i : Instr} {k : OpKind} {acts : List Action} (h : Starts s i k acts) (hk : k ≠ .draw) :
    ∀ a ∈ acts, a.Quiet := by
  have mode (m : Byte) : ∀ a ∈ modeScript m, a.Quiet :=
    List.forall_mem_cons.mpr ⟨quiet_wireTxn (by decide) (by decide) _, List.forall_mem_singleton.mpr trivial⟩
  cases h with
  | reset => unfold resetScript; split <;> simp [Action.Quiet]
  | init =>
    rw [initScript_eq_tableActions]
    exact tableActions_quiet fun _ => leavesWindow_of_mem_initTable
  | draw => exact absurd rfl hk
  | setMirror x y => exact mode _
  | setSwapAxes sw => exact mode _
  | invertColor on => cases on <;> exact List.forall_mem_singleton.mpr (quiet_wireTxn (by decide) (by decide) _)
  | displayPower on => cases on <;> exact List.forall_mem_singleton.mpr (quiet_wireTxn (by decide) (by decide) _)

/-- A request that is neither INIT nor DRAW leaves the hidden state alone (R37). -/
theorem Starts.sameHidden {s : State} {i : Instr} {k : OpKind} {acts : List Action} (h : Starts s i k acts)
    (hinit : k ≠ .init) (hdraw : k ≠ .draw) : SameHidden s (run k 1 acts s) := by
  obtain ⟨hsame, -⟩ | ⟨r, c, hsame, -, -, hend⟩ := run_quietly k 1 (h.quiet hdraw) s
  · exact hsame
  · rw [hend]
    cases h with
    | init => exact absurd rfl hinit
    | draw => exact absurd rfl hdraw
    | _ => exact hsame

/-- A completed INIT sets the ghost flag exactly when it completes OK, and keeps the ghost window (R37). -/
theorem run_init_hidden {s : State} {c : Completion}
    (hc : (run .init 1 (initScript s.cfg s.madctl) s).completions = s.completions ++ [c]) :
    (run .init 1 (initScript s.cfg s.madctl) s).ctrlDefined = decide (c = .ok) ∧
      (run .init 1 (initScript s.cfg s.madctl) s).ctrlColumns = s.ctrlColumns ∧
      (run .init 1 (initScript s.cfg s.madctl) s).ctrlRows = s.ctrlRows := by
  obtain ⟨-, hsame⟩ | ⟨r, d, ⟨-, hcols, hrows, -⟩, hr, hd, hend⟩ := run_quietly .init 1 ((Starts.init (s := s)).quiet nofun) s
  · simp [hsame] at hc
  · obtain rfl : d = c := by simpa [hend, hr] using hc
    rw [hend]
    obtain rfl | ⟨cmd, phase, rfl⟩ := hd
    · exact ⟨rfl, hcols, hrows⟩
    · exact ⟨rfl, hcols, hrows⟩

/-! ## The hidden state at the end of a DRAW -/

/-- The ghost columns after a transaction answered OK (R37). -/
@[simp] theorem accepted_ctrlColumns (s : State) (t : Txn) (as : List Answer) :
    (s.accepted t as).ctrlColumns = if t.cmd = some (commandByte .caset) then parseCoord8 t.data else s.ctrlColumns := by
  unfold State.accepted State.noteWindow
  split
  · rfl
  · split <;> rfl

/-- The ghost rows after a transaction answered OK (R37). -/
@[simp] theorem accepted_ctrlRows (s : State) (t : Txn) (as : List Answer) :
    (s.accepted t as).ctrlRows = if t.cmd = some (commandByte .raset) then parseCoord8 t.data else s.ctrlRows := by
  have hdistinct : commandByte .caset ≠ commandByte .raset := by decide
  unfold State.accepted State.noteWindow
  split
  · rename_i hcol
    rw [if_neg (by simpa [hcol] using hdistinct)]
    rfl
  · split <;> rfl

/-- The end of a DRAW with OK keeps the ghost state (R37). -/
theorem finish_draw_ok_ghost (s : State) :
    (s.finish .draw .ok).ctrlDefined = s.ctrlDefined ∧ (s.finish .draw .ok).ctrlColumns = s.ctrlColumns ∧
      (s.finish .draw .ok).ctrlRows = s.ctrlRows :=
  ⟨rfl, rfl, rfl⟩

/-- A DRAW completed OK has set the ghost window to its ranges and kept the ghost flag, and nothing is known of CONV_BUF
(R32, R37). -/
theorem run_draw_hidden {c : Configuration} {s : State} {xs ys xe ye : Half} {px : List Half} {as : List Answer}
    (has : s.answers = .ok :: .ok :: .ok :: .ok :: as) {t : State}
    (ht : t = run .draw 1 (drawScript c xs ys xe ye px) s) :
    t.ctrlDefined = s.ctrlDefined ∧ t.convBuf = [] ∧
      t.ctrlColumns = some (windowFirst xs c.xGap, windowLast xe c.xGap) ∧
      t.ctrlRows = some (windowFirst ys c.yGap, windowLast ye c.yGap) := by
  rw [drawScript, run_tx_ok has, run_tx_ok (accepted_answers ..), run_convert,
    run_tx_ok (by rw [convertPixels_answers, accepted_answers]), run_txScratch, run_tx_ok (accepted_answers ..),
    run_nil] at ht
  rw [ht]
  obtain ⟨hflag, hcols, hrows⟩ := finish_draw_ok_ghost _
  refine ⟨hflag.trans (by simp), by simp, hcols.trans ?_, hrows.trans ?_⟩
  · simp [wireTxn, payloadTxn, commandByte]
  · simp [wireTxn, payloadTxn, commandByte]

/-- The hidden state after a DRAW that has ended. -/
theorem exec_draw_hidden {s t : State} {xs ys xe ye : Half} {px : List Half} {c : Completion} (hidle : Idle s)
    (hvalid : DrawValid s.cfg xs ys xe ye px) (hcap : px.length ≤ s.cfg.capPixels.toNat)
    (h : exec (.draw xs ys xe ye px) s = .next t) (hc : t.completions = s.completions ++ [c]) :
    (c = .ok ∧ t.ctrlDefined = s.ctrlDefined ∧ t.convBuf = [] ∧
      t.ctrlColumns = some (windowFirst xs s.cfg.xGap, windowLast xe s.cfg.xGap) ∧
      t.ctrlRows = some (windowFirst ys s.cfg.yGap, windowLast ye s.cfg.yGap)) ∨
    ((∃ cmd phase, c = .transportFailure cmd phase) ∧
      t.ctrlDefined = false ∧ t.convBuf = [] ∧ t.ctrlColumns = none ∧ t.ctrlRows = none) := by
  obtain ⟨as, has⟩ | ⟨k, hk, has⟩ := answers_cases (drawTxns s.cfg xs ys xe ye px).length s.answers
  · obtain ⟨_, _, _, hok⟩ := exec_draw_ok hidle hvalid hcap has
    injection h.symm.trans hok with ht
    injection h.symm.trans (exec_draw_runs hidle hvalid hcap) with hrun
    obtain rfl : .ok = c := by simpa [ht] using hc
    exact .inl ⟨rfl, run_draw_hidden has hrun⟩
  · have hu := List.getElem?_eq_getElem hk
    obtain has | ⟨as, has⟩ := has
    · obtain ⟨_, rest, ⟨_, _, _, rfl⟩, hwait⟩ := exec_draw_waits hidle hvalid hcap hu has
      injection h.symm.trans hwait with ht
      simp [ht] at hc
    · injection h.symm.trans (exec_draw_fail hidle hvalid hcap hu has) with ht
      subst ht
      obtain rfl : .transportFailure _ _ = c := by simpa using hc
      exact .inr ⟨⟨_, _, rfl⟩, rfl, rfl, rfl, rfl⟩

/-- Settles O22: DRAW by how it ends, INIT and the rest by their quiet steps and their end. -/
theorem ghostStateAtTheEndOfARequest : Obligations.GhostStateAtTheEndOfARequest := by
  intro i s t c hi hidle h hc
  obtain ⟨-, ⟨⟨_, _, _, _, _, rfl, -, -⟩, rfl⟩ | ⟨k, acts, hstart, rfl⟩⟩ := exec_request_next hi h
  · obtain rfl : .sizeLimitExceeded = c := by simpa [sizeLimit] using hc
    refine ⟨nofun, ?_, fun _ hne => absurd rfl (hne _ _ _ _ _)⟩
    rintro _ _ _ _ _ ⟨⟩
    exact ⟨nofun, fun _ => ⟨rfl, rfl, rfl⟩, fun _ hne => absurd rfl hne⟩
  · cases hstart with
    | init => exact ⟨fun _ => run_init_hidden hc, nofun, fun hne => absurd rfl hne⟩
    | draw hvalid hfits =>
      have hv := drawRefusal_eq_none_iff.mp hvalid
      refine ⟨nofun, ?_, fun _ hne => absurd rfl (hne _ _ _ _ _)⟩
      rintro _ _ _ _ _ ⟨⟩
      obtain ⟨rfl, hend⟩ | ⟨⟨cmd, phase, rfl⟩, hend⟩ := exec_draw_hidden hidle hv (hv.pixels ▸ hfits) h hc
      · exact ⟨fun _ => hend, nofun, fun hne => absurd rfl hne⟩
      · exact ⟨nofun, nofun, fun _ _ => hend⟩
    | reset => exact ⟨nofun, nofun, fun _ _ => Starts.reset.sameHidden nofun nofun⟩
    | setMirror x y => exact ⟨nofun, nofun, fun _ _ => (Starts.setMirror x y).sameHidden nofun nofun⟩
    | setSwapAxes sw => exact ⟨nofun, nofun, fun _ _ => (Starts.setSwapAxes sw).sameHidden nofun nofun⟩
    | invertColor on => exact ⟨nofun, nofun, fun _ _ => (Starts.invertColor on).sameHidden nofun nofun⟩
    | displayPower on => exact ⟨nofun, nofun, fun _ _ => (Starts.displayPower on).sameHidden nofun nofun⟩

end Sys2Proof.Machine
